-- ==== Sys2Proof/Word.lean ====
section
/-!
DEFINITION. The word types of RXFE345: the one-bit level, the sample byte, the 64-bit register and
frame, the 17-bit polynomial. All values are unsigned (00_scope.md R9).
-/

namespace Sys2Proof

/-- One bit: a sample's level, a chip, a data bit, a strobe. `false` is 0 and `true` is 1 (R72). -/
abbrev Bit := Bool

/-- A sample byte of the input stream (R51). -/
abbrev Byte := BitVec 8

/-- The width of the framer's register, of a frame and of the CRC working values (R4, `FRAME_W`, `CRC_W`). -/
abbrev Word := BitVec 64

/-- A polynomial written as a 17-bit literal, bit `i` for the term `x^i` (R76). -/
abbrev Poly := BitVec 17

end Sys2Proof
end

