-- ==== Sys2Proof/Syntax.lean ====
section
/-!
DEFINITION. The operations of RXFE345: one constructor per row of spec/opcode_table.json, in the
table's order. The block has no program (00_scope.md R7); a row is selected by the value of a stage's
input.
-/

namespace Sys2Proof

/-- The operations, one per row of the opcode table. Operands are the bits the row leaves open. -/
inductive Instr where
  /-- `SMP0`, sample byte 0x00: a valid sample of level 0 (R101). -/
  | smp0
  /-- `SMP1`, sample byte 0x01: a valid sample of level 1 (R102). -/
  | smp1
  /-- `SMPX.b7`: an invalid sample whose highest set bit is bit 7; `x` is ignored (R103). -/
  | smpxB7 (x : BitVec 7)
  /-- `SMPX.b6`: highest set bit 6 (R103). -/
  | smpxB6 (x : BitVec 6)
  /-- `SMPX.b5`: highest set bit 5 (R103). -/
  | smpxB5 (x : BitVec 5)
  /-- `SMPX.b4`: highest set bit 4 (R103). -/
  | smpxB4 (x : BitVec 4)
  /-- `SMPX.b3`: highest set bit 3 (R103). -/
  | smpxB3 (x : BitVec 3)
  /-- `SMPX.b2`: highest set bit 2 (R103). -/
  | smpxB2 (x : BitVec 2)
  /-- `SMPX.b1`: highest set bit 1 (R103). -/
  | smpxB1 (x : BitVec 1)
  /-- `MAN.LOW_PHASE_A.0` (R121). -/
  | manLowPhaseA0
  /-- `MAN.LOW_PHASE_A.1` (R122). -/
  | manLowPhaseA1
  /-- `MAN.LOW_PHASE_B.0` (R123). -/
  | manLowPhaseB0
  /-- `MAN.LOW_PHASE_B.1` (R124). -/
  | manLowPhaseB1
  /-- `MAN.HIGH_PHASE_A.0` (R125). -/
  | manHighPhaseA0
  /-- `MAN.HIGH_PHASE_A.1` (R126). -/
  | manHighPhaseA1
  /-- `MAN.HIGH_PHASE_B.0` (R127). -/
  | manHighPhaseB0
  /-- `MAN.HIGH_PHASE_B.1` (R128). -/
  | manHighPhaseB1
  /-- `BIT0`: data bit 0 into the framer (R141). -/
  | bit0
  /-- `BIT1`: data bit 1 into the framer (R142). -/
  | bit1
  /-- `FRAME`: delivery of the frame with these fields (R143, R74). -/
  | frame (sof : BitVec 4) (serial : BitVec 20) (ty : BitVec 8) (crc : BitVec 16)
  /-- `POLY.OTHER.sof0` (R165). -/
  | polyOtherSof0
  /-- `POLY.OTHER.sof1` (R165). -/
  | polyOtherSof1
  /-- `POLY.2GIG.sof2` (R162). -/
  | poly2gigSof2
  /-- `POLY.2GIG.sof3` (R162). -/
  | poly2gigSof3
  /-- `POLY.2GIG.sof4` (R162). -/
  | poly2gigSof4
  /-- `POLY.OTHER.sof5` (R165). -/
  | polyOtherSof5
  /-- `POLY.OTHER.sof6` (R165). -/
  | polyOtherSof6
  /-- `POLY.2GIG.sof7` (R162). -/
  | poly2gigSof7
  /-- `POLY.HONEYWELL.sof8` (R163). -/
  | polyHoneywellSof8
  /-- `POLY.2GIG.sof9` (R162). -/
  | poly2gigSof9
  /-- `POLY.2GIG.sofA` (R162). -/
  | poly2gigSofA
  /-- `POLY.2GIG.sofB` (R162). -/
  | poly2gigSofB
  /-- `POLY.2GIG.sofC` (R162). -/
  | poly2gigSofC
  /-- `POLY.VIVINT.sofD` (R164). -/
  | polyVivintSofD
  /-- `POLY.VIVINT.sofE` (R164). -/
  | polyVivintSofE
  /-- `POLY.2GIG.sofF` (R162). -/
  | poly2gigSofF
  /-- `CRC.AUTO` on the value `f`; `x`, the port's `force_poly`, is ignored (R78, R160). -/
  | crcAuto (x : BitVec 17) (f : Word)
  /-- `CRC.FORCE` with the polynomial `p`, bit 16 included, on the value `f` (R78, R160). -/
  | crcForce (p : Poly) (f : Word)
  /-- `SEL.RESERVED`: `force_en` = 1 with `force_poly[16]` = 0; `x` is the rest of `force_poly` (R78, R174). -/
  | selReserved (x : BitVec 16) (f : Word)
  /-- `RESET`, selected by the reset input alone (R230). -/
  | reset
  deriving DecidableEq, Repr

end Sys2Proof
end

