-- ==== Sys2Proof/WellFormed.lean ====
section
/-!
DEFINITION. When an instruction is well formed: its operands are ones its row of the table admits. The
operand types carry every width; the one further check is R174's, that a forced polynomial has bit 16
set (0x10000 <= p <= 0x1FFFF).
-/

namespace Sys2Proof

/-- A forced polynomial the row `CRC.FORCE` admits: bit 16 set (R78, R174). -/
def polyAdmitted (p : Poly) : Bool := p.getLsbD 16

/-- The operands are ones the instruction's row admits. -/
def Instr.wellFormed : Instr → Bool
  | .crcForce p _ => polyAdmitted p
  | .smp0 | .smp1 => true
  | .smpxB7 _ | .smpxB6 _ | .smpxB5 _ | .smpxB4 _ | .smpxB3 _ | .smpxB2 _ | .smpxB1 _ => true
  | .manLowPhaseA0 | .manLowPhaseA1 | .manLowPhaseB0 | .manLowPhaseB1 => true
  | .manHighPhaseA0 | .manHighPhaseA1 | .manHighPhaseB0 | .manHighPhaseB1 => true
  | .bit0 | .bit1 => true
  | .frame _ _ _ _ => true
  | .polyOtherSof0 | .polyOtherSof1 | .poly2gigSof2 | .poly2gigSof3 | .poly2gigSof4 => true
  | .polyOtherSof5 | .polyOtherSof6 | .poly2gigSof7 | .polyHoneywellSof8 | .poly2gigSof9 => true
  | .poly2gigSofA | .poly2gigSofB | .poly2gigSofC | .polyVivintSofD | .polyVivintSofE => true
  | .poly2gigSofF => true
  | .crcAuto _ _ => true
  | .selReserved _ _ => true
  | .reset => true

/-- `i` is well formed. -/
abbrev Instr.WellFormed (i : Instr) : Prop := i.wellFormed = true

end Sys2Proof
end

