-- ==== Sys2Proof/Decode.lean ====
section
/-!
DEFINITION. The value formats of 30_encoding.md R70, the decoder (total on every word of every format,
rejecting by name), the encoder written from the same tables, and the rows of the opcode table as mask
and match. The formats are not told apart by their bits (each is the input of a stage of its own), so a
word carries its format.
-/

namespace Sys2Proof

/-- The formats of R70, with `none` for `RESET`, which has no format. -/
inductive Format where
  | smp | man | dbit | frm | sof | sel | none
  deriving DecidableEq, Repr

/-- A value at the input of one stage, in its format (R70). -/
inductive PortWord where
  /-- `SMP`: the sample byte (R71). -/
  | smp (b : BitVec 8)
  /-- `MAN`: `mstate[1:0]` then the chip (R70, R73). -/
  | man (w : BitVec 3)
  /-- `DBIT`: the data bit. -/
  | dbit (w : BitVec 1)
  /-- `FRM`: the register after a shift, on which the sync test is made (R75). -/
  | frm (w : BitVec 64)
  /-- `SOF`: `frame[47:44]` (R77). -/
  | sof (w : BitVec 4)
  /-- `SEL`: `force_en` then `force_poly[16:0]`, with the 64-bit value to check beside it (R78, R160). -/
  | sel (w : BitVec 18) (f : BitVec 64)
  /-- the reset input (R230). -/
  | reset
  deriving DecidableEq, Repr

/-- Why a word selects no row. -/
inductive DecodeError where
  /-- An `FRM` word whose bits 63..48 are not 0xFFFE: the sync test fails and nothing is delivered (R75, R140). -/
  | noSync
  deriving DecidableEq, Repr

/-- Format `SMP` (R71): 0x00, 0x01, and every other byte by its highest set bit. -/
def decodeSmp (b : BitVec 8) : Instr :=
  if b = 0x00#8 then .smp0
  else if b = 0x01#8 then .smp1
  else if b.getLsbD 7 then .smpxB7 (b.extractLsb' 0 7)
  else if b.getLsbD 6 then .smpxB6 (b.extractLsb' 0 6)
  else if b.getLsbD 5 then .smpxB5 (b.extractLsb' 0 5)
  else if b.getLsbD 4 then .smpxB4 (b.extractLsb' 0 4)
  else if b.getLsbD 3 then .smpxB3 (b.extractLsb' 0 3)
  else if b.getLsbD 2 then .smpxB2 (b.extractLsb' 0 2)
  else .smpxB1 (b.extractLsb' 0 1)

/-- Format `MAN` (R70, R73): `{mstate, chip}` with LOW_PHASE_A = 00, LOW_PHASE_B = 01,
HIGH_PHASE_A = 10, HIGH_PHASE_B = 11. -/
def decodeMan (w : BitVec 3) : Instr :=
  if w = 0b000#3 then .manLowPhaseA0
  else if w = 0b001#3 then .manLowPhaseA1
  else if w = 0b010#3 then .manLowPhaseB0
  else if w = 0b011#3 then .manLowPhaseB1
  else if w = 0b100#3 then .manHighPhaseA0
  else if w = 0b101#3 then .manHighPhaseA1
  else if w = 0b110#3 then .manHighPhaseB0
  else .manHighPhaseB1

/-- Format `DBIT` (R70). -/
def decodeDbit (w : BitVec 1) : Instr :=
  if w = 0#1 then .bit0 else .bit1

/-- Format `FRM` (R74, R75): the row is selected iff bits 63..48 are 0xFFFE. -/
def decodeFrm (w : BitVec 64) : Except DecodeError Instr :=
  if w.extractLsb' 48 16 = 0xFFFE#16 then
    .ok (.frame (w.extractLsb' 44 4) (w.extractLsb' 24 20) (w.extractLsb' 16 8) (w.extractLsb' 0 16))
  else .error .noSync

/-- Format `SOF` (R77): all sixteen values. -/
def decodeSof (w : BitVec 4) : Instr :=
  if w = 0x0#4 then .polyOtherSof0
  else if w = 0x1#4 then .polyOtherSof1
  else if w = 0x2#4 then .poly2gigSof2
  else if w = 0x3#4 then .poly2gigSof3
  else if w = 0x4#4 then .poly2gigSof4
  else if w = 0x5#4 then .polyOtherSof5
  else if w = 0x6#4 then .polyOtherSof6
  else if w = 0x7#4 then .poly2gigSof7
  else if w = 0x8#4 then .polyHoneywellSof8
  else if w = 0x9#4 then .poly2gigSof9
  else if w = 0xA#4 then .poly2gigSofA
  else if w = 0xB#4 then .poly2gigSofB
  else if w = 0xC#4 then .poly2gigSofC
  else if w = 0xD#4 then .polyVivintSofD
  else if w = 0xE#4 then .polyVivintSofE
  else .poly2gigSofF

/-- Format `SEL` (R78): `force_en` is bit 17, `force_poly` bits 16..0. -/
def decodeSel (w : BitVec 18) (f : BitVec 64) : Instr :=
  if w.getLsbD 17 then
    if w.getLsbD 16 then .crcForce (w.extractLsb' 0 17) f
    else .selReserved (w.extractLsb' 0 16) f
  else .crcAuto (w.extractLsb' 0 17) f

/-- The decoder. The one word it rejects is an `FRM` word without the sync pattern. -/
def decode : PortWord → Except DecodeError Instr
  | .smp b => .ok (decodeSmp b)
  | .man w => .ok (decodeMan w)
  | .dbit w => .ok (decodeDbit w)
  | .frm w => decodeFrm w
  | .sof w => .ok (decodeSof w)
  | .sel w f => .ok (decodeSel w f)
  | .reset => .ok .reset

/-- The encoder: the word of an instruction, from the encoding column of the opcode table. -/
def encode : Instr → PortWord
  | .smp0 => .smp 0b00000000#8
  | .smp1 => .smp 0b00000001#8
  | .smpxB7 x => .smp (0b1#1 ++ x)
  | .smpxB6 x => .smp (0b01#2 ++ x)
  | .smpxB5 x => .smp (0b001#3 ++ x)
  | .smpxB4 x => .smp (0b0001#4 ++ x)
  | .smpxB3 x => .smp (0b00001#5 ++ x)
  | .smpxB2 x => .smp (0b000001#6 ++ x)
  | .smpxB1 x => .smp (0b0000001#7 ++ x)
  | .manLowPhaseA0 => .man 0b000#3
  | .manLowPhaseA1 => .man 0b001#3
  | .manLowPhaseB0 => .man 0b010#3
  | .manLowPhaseB1 => .man 0b011#3
  | .manHighPhaseA0 => .man 0b100#3
  | .manHighPhaseA1 => .man 0b101#3
  | .manHighPhaseB0 => .man 0b110#3
  | .manHighPhaseB1 => .man 0b111#3
  | .bit0 => .dbit 0#1
  | .bit1 => .dbit 1#1
  | .frame sof serial ty crc => .frm (0xFFFE#16 ++ sof ++ serial ++ ty ++ crc)
  | .polyOtherSof0 => .sof 0x0#4
  | .polyOtherSof1 => .sof 0x1#4
  | .poly2gigSof2 => .sof 0x2#4
  | .poly2gigSof3 => .sof 0x3#4
  | .poly2gigSof4 => .sof 0x4#4
  | .polyOtherSof5 => .sof 0x5#4
  | .polyOtherSof6 => .sof 0x6#4
  | .poly2gigSof7 => .sof 0x7#4
  | .polyHoneywellSof8 => .sof 0x8#4
  | .poly2gigSof9 => .sof 0x9#4
  | .poly2gigSofA => .sof 0xA#4
  | .poly2gigSofB => .sof 0xB#4
  | .poly2gigSofC => .sof 0xC#4
  | .polyVivintSofD => .sof 0xD#4
  | .polyVivintSofE => .sof 0xE#4
  | .poly2gigSofF => .sof 0xF#4
  | .crcAuto x f => .sel (0b0#1 ++ x) f
  | .crcForce p f => .sel (0b1#1 ++ p) f
  | .selReserved x f => .sel (0b10#2 ++ x) f
  | .reset => .reset

/-- The format of a word (R70). -/
def formatOf : PortWord → Format
  | .smp _ => .smp
  | .man _ => .man
  | .dbit _ => .dbit
  | .frm _ => .frm
  | .sof _ => .sof
  | .sel _ _ => .sel
  | .reset => .none

/-- The bits of a word in its format, zero-extended (the opcode table's numbering: bit 0 least). -/
def bitsOf : PortWord → BitVec 64
  | .smp b => b.setWidth 64
  | .man w => w.setWidth 64
  | .dbit w => w.setWidth 64
  | .frm w => w
  | .sof w => w.setWidth 64
  | .sel w _ => w.setWidth 64
  | .reset => 0

/-- A row of the opcode table: its format and its columns mask and match. -/
structure TableRow where
  format : Format
  mask : BitVec 64
  matchBits : BitVec 64
  deriving DecidableEq, Repr

/-- The opcode table's row of an instruction (spec/opcode_table.json, columns format, mask, match). -/
def tableRow : Instr → TableRow
  | .smp0 => ⟨.smp, 0xFF, 0x00⟩
  | .smp1 => ⟨.smp, 0xFF, 0x01⟩
  | .smpxB7 _ => ⟨.smp, 0x80, 0x80⟩
  | .smpxB6 _ => ⟨.smp, 0xC0, 0x40⟩
  | .smpxB5 _ => ⟨.smp, 0xE0, 0x20⟩
  | .smpxB4 _ => ⟨.smp, 0xF0, 0x10⟩
  | .smpxB3 _ => ⟨.smp, 0xF8, 0x08⟩
  | .smpxB2 _ => ⟨.smp, 0xFC, 0x04⟩
  | .smpxB1 _ => ⟨.smp, 0xFE, 0x02⟩
  | .manLowPhaseA0 => ⟨.man, 0x7, 0x0⟩
  | .manLowPhaseA1 => ⟨.man, 0x7, 0x1⟩
  | .manLowPhaseB0 => ⟨.man, 0x7, 0x2⟩
  | .manLowPhaseB1 => ⟨.man, 0x7, 0x3⟩
  | .manHighPhaseA0 => ⟨.man, 0x7, 0x4⟩
  | .manHighPhaseA1 => ⟨.man, 0x7, 0x5⟩
  | .manHighPhaseB0 => ⟨.man, 0x7, 0x6⟩
  | .manHighPhaseB1 => ⟨.man, 0x7, 0x7⟩
  | .bit0 => ⟨.dbit, 0x1, 0x0⟩
  | .bit1 => ⟨.dbit, 0x1, 0x1⟩
  | .frame _ _ _ _ => ⟨.frm, 0xFFFF000000000000, 0xFFFE000000000000⟩
  | .polyOtherSof0 => ⟨.sof, 0xF, 0x0⟩
  | .polyOtherSof1 => ⟨.sof, 0xF, 0x1⟩
  | .poly2gigSof2 => ⟨.sof, 0xF, 0x2⟩
  | .poly2gigSof3 => ⟨.sof, 0xF, 0x3⟩
  | .poly2gigSof4 => ⟨.sof, 0xF, 0x4⟩
  | .polyOtherSof5 => ⟨.sof, 0xF, 0x5⟩
  | .polyOtherSof6 => ⟨.sof, 0xF, 0x6⟩
  | .poly2gigSof7 => ⟨.sof, 0xF, 0x7⟩
  | .polyHoneywellSof8 => ⟨.sof, 0xF, 0x8⟩
  | .poly2gigSof9 => ⟨.sof, 0xF, 0x9⟩
  | .poly2gigSofA => ⟨.sof, 0xF, 0xA⟩
  | .poly2gigSofB => ⟨.sof, 0xF, 0xB⟩
  | .poly2gigSofC => ⟨.sof, 0xF, 0xC⟩
  | .polyVivintSofD => ⟨.sof, 0xF, 0xD⟩
  | .polyVivintSofE => ⟨.sof, 0xF, 0xE⟩
  | .poly2gigSofF => ⟨.sof, 0xF, 0xF⟩
  | .crcAuto _ _ => ⟨.sel, 0x20000, 0x00000⟩
  | .crcForce _ _ => ⟨.sel, 0x30000, 0x30000⟩
  | .selReserved _ _ => ⟨.sel, 0x30000, 0x20000⟩
  | .reset => ⟨.none, 0, 0⟩

/-- The word whose bits are `w` in a format of `nbits` bits, or of that many in whole bytes where no
narrower format claims the width. A `SEL` word (18 bits, 24 in whole bytes) is followed by the 64-bit
value to check, from bit 24 on. DESIGN CHOICE, log entry 11: eight bits are read as a sample byte. -/
def tablePortWord (nbits w : Nat) : Option PortWord :=
  if nbits = 0 then some .reset
  else if nbits = 1 then some (.dbit (BitVec.ofNat 1 w))
  else if nbits = 3 then some (.man (BitVec.ofNat 3 w))
  else if nbits = 4 then some (.sof (BitVec.ofNat 4 w))
  else if nbits = 8 then some (.smp (BitVec.ofNat 8 w))
  else if nbits = 18 ∨ nbits = 24 then some (.sel (BitVec.ofNat 18 w) (BitVec.ofNat 64 (w / 2 ^ 24)))
  else if nbits = 64 then some (.frm (BitVec.ofNat 64 w))
  else none

/-- The instruction the decoder reads from `nbits` bits of value `w`. -/
def decodeTableWord (nbits w : Nat) : Option Instr :=
  match tablePortWord nbits w with
  | none => none
  | some p =>
    match decode p with
    | .ok i => some i
    | .error _ => none

end Sys2Proof
end

