-- ==== Sys2Proof/Config.lean ====
section
/-!
DEFINITION. The constants of 00_scope.md R4. `SPB` itself is a field of State (the host fixes it before
reset, R27, R231); here stand its default and the bottom of its admitted range. The block leaves no
value to a draw (R8, R196), so this file holds no free value.
-/

namespace Sys2Proof.Config

/-- Default of `SPB`, the samples per chip: the only value the document vouches for (R4). -/
def spbDefault : Nat := 8

/-- Least admitted `SPB` (R4, R108; DESIGN CHOICE of the spec, its D5; log entry 13). -/
def spbMin : Nat := 4

/-- `HALF = SPB div 2`, rounded down (R4; DESIGN CHOICE of the spec for odd `SPB`, its D7; log entry 18). -/
def half (spb : Nat) : Nat := spb / 2

/-- `SYNC_MASK`: the bits of the register compared with the sync pattern (R4). -/
def syncMask : Word := 0xFFFF000000000000

/-- `SYNC_PATTERN`: the masked value that delivers a frame (R4, R75; conflict C1). -/
def syncPattern : Word := 0xFFFE000000000000

/-- `POLY_2GIG` (R4, R162). -/
def poly2gig : Poly := 0x18050

/-- `POLY_HONEYWELL` (R4, R163). -/
def polyHoneywell : Poly := 0x18005

/-- `POLY_VIVINT`, which the document flags as assumed (R4, R164; UNVERIFIED, log entry 24). -/
def polyVivint : Poly := 0x18050

/-- `POLY_DEFAULT`, for a `sof` in no row of the brand table (R4, R165). -/
def polyDefault : Poly := 0x18050

/-- `DIV_SHIFT`: the initial left shift of the divisor (R4, R80). -/
def divShift : Nat := 31

end Sys2Proof.Config
end

