-- ==== Sys2Proof/Machine/State.lean ====
section
/-!
DEFINITION. The state of RXFE345 as plain data, its outputs, the events at its inputs, the reasons a
step can stop, and the state after reset (10_state.md R20 to R30, 70_reset_and_hazards.md R230).
-/

namespace Sys2Proof.Machine

/-- The state of the Manchester decoder (R23). -/
inductive MState where
  /-- low level, nothing pending -/
  | lowPhaseA
  /-- low level, a data bit 0 is pending (R25) -/
  | lowPhaseB
  /-- high level, nothing pending -/
  | highPhaseA
  /-- high level, a data bit 1 is pending (R25) -/
  | highPhaseB
  deriving DecidableEq, Repr

/-- The brand a frame's `sof` selects (R77, R79). -/
inductive Brand where
  | unknown | gig2 | honeywell | vivint
  deriving DecidableEq, Repr

/-- What the brand table says of one `sof` (R162 to R165). -/
structure Selection where
  brand : Brand
  polyUsed : Poly
  polyAssumed : Bit
  deriving DecidableEq, Repr

/-- The outputs that `frame_valid` qualifies (R28, R192). -/
structure FrameOut where
  frame : Word
  sof : BitVec 4
  brand : Brand
  polyUsed : Poly
  polyAssumed : Bit
  crcOkAuto : Bit
  crcOk2gig : Bit
  deriving DecidableEq, Repr

/-- The outputs of one step (R28). A strobe is 1 iff its field is present; an output whose strobe is 0
is absent. The last two fields are the model's own: what a brand selection or a CRC check run alone
returns (log entries 9 and 10). -/
structure Outputs where
  /-- `chip_valid` and `chip` -/
  chip : Option Bit := none
  /-- `bit_valid` and `bit` -/
  bit : Option Bit := none
  /-- `frame_valid`, `frame` and the rest -/
  frame : Option FrameOut := none
  /-- the result of a `POLY.*` row run alone -/
  selection : Option Selection := none
  /-- the Boolean a separate `CRC_CHECK` returns (R160) -/
  crcOk : Option Bit := none
  deriving DecidableEq, Repr

/-- One input event (R5, R82, R194). -/
inductive Event where
  /-- a sample byte: `S0`, `S1`, `SX(0xNN)` (R51, R71) -/
  | sample (b : Byte)
  /-- `RST` (R230) -/
  | reset
  /-- a separate check `CRC(f, sel)` at the validator's port (R78, R194) -/
  | crc (sel : BitVec 18) (f : Word)
  /-- `C0`, `C1`: a chip handed to the decoder, for tests of that stage (R82, R194; log entry 6) -/
  | chip (c : Bit)
  /-- `B0`, `B1`: a data bit handed to the framer, for tests of that stage (R82, R194; log entry 6) -/
  | dbit (d : Bit)
  /-- the sync test of R140 made on `sreg` as it stands: the model's own, log entry 7 -/
  | syncTest
  /-- the brand table asked for one `sof`: the model's own, log entry 7 -/
  | brandOf (sof : BitVec 4)
  deriving DecidableEq, Repr

/-- The state. The first four fields are the whole state the spec gives the block (R20); the last three
are the model's own (log entries 1, 2 and 3): the static parameter, the events presented and not yet
consumed, and the outputs of the step that led here. -/
structure State where
  /-- the level of the last valid sample (R21) -/
  lastSample : Bit
  /-- valid samples since the last edge, the edge sample counting as 1, without bound (R22) -/
  samplesSinceEdge : Nat
  /-- the Manchester decoder's state (R23) -/
  mstate : MState
  /-- the framer's shift register (R24) -/
  sreg : Word
  /-- `SPB`, fixed by the host before reset (R4, R27) -/
  spb : Nat
  /-- the input stream: what the host has presented, next event first (R51) -/
  input : List Event
  /-- the outputs of the last step (R28) -/
  out : Outputs
  deriving DecidableEq, Repr

/-- Why the machine stops with a fault: never. The block raises no exception and no operation has a
faulting outcome (R210), so no reason exists. -/
inductive Fault where
  deriving DecidableEq, Repr

/-- Why the model gives an input no meaning (93_implementation_defined.md part 2). -/
inductive Refusal where
  /-- raised by an arm of `exec` whose instruction has no meaning yet; none is left. Safe. -/
  | notModelled (mnemonic : String)
  /-- X1: raised by `step` and by `SMP0` and `SMP1` when `SPB` < 4 (R108). Safe: no claim is made there. -/
  | spbNotAdmitted
  /-- X2: raised by `SEL.RESERVED`, `force_en` = 1 with `force_poly[16]` = 0 (R78, R81, R174). Safe. -/
  | reservedSelector
  /-- X2: raised by `CRC.FORCE` on an ill-formed polynomial, bit 16 clear (R174); decoding never gives
  one. Safe. -/
  | polynomialNotAdmitted
  /-- raised by a `MAN.*` row in a decoder state other than its own, or by `FRAME` when `sreg` is not the
  frame: combinations that select no row (R70, R143); `step` never meets one (log entry 8). Safe. -/
  | rowNotSelected
  deriving DecidableEq, Repr

/-- The machine right after `RESET` (R29, R230), with `SPB` at its default and nothing presented. The
decoder's LOW_PHASE_A is the document's; the three zeros are the spec's own decision D3 (DESIGN CHOICE,
log entry 4). -/
def State.reset : State where
  lastSample := false
  samplesSinceEdge := 0
  mstate := .lowPhaseA
  sreg := 0
  spb := Config.spbDefault
  input := []
  out := {}

end Sys2Proof.Machine
end

