-- ==== Sys2Proof/Machine/Operands.lean ====
section
/-!
DEFINITION. The operand forms: the register codes of the enumerations (R73, R79), the fields of a frame
(R74), the bytes and words at the stage inputs (R70 to R72), the CRC selector (R78) and the two operands
the division assembles (R80).
-/

namespace Sys2Proof.Machine

/-- The level 0 or 1 as a number's single bit. -/
def bitWord (b : Bit) : Word := if b then 1 else 0

/-- `mstate[1:0]` (R73; the spec's D10, log entry 20). -/
def MState.code : MState → BitVec 2
  | .lowPhaseA => 0b00#2
  | .lowPhaseB => 0b01#2
  | .highPhaseA => 0b10#2
  | .highPhaseB => 0b11#2

/-- The decoder state of a 2-bit code (R73). -/
def mstateOfCode (c : BitVec 2) : MState :=
  if c = 0b00#2 then .lowPhaseA
  else if c = 0b01#2 then .lowPhaseB
  else if c = 0b10#2 then .highPhaseA
  else .highPhaseB

/-- The output `brand[1:0]` (R79; the spec's D18, log entry 20). -/
def Brand.code : Brand → BitVec 2
  | .unknown => 0b00#2
  | .gig2 => 0b01#2
  | .honeywell => 0b10#2
  | .vivint => 0b11#2

/-- The `MAN` word `{mstate, chip}` (R70). -/
def manWord (m : MState) (c : Bit) : BitVec 3 := m.code ++ BitVec.ofBool c

/-- `sync`, bits 63..48 (R74). -/
def syncOf (f : Word) : BitVec 16 := f.extractLsb' 48 16

/-- `sof`, bits 47..44 (R74). -/
def sofOf (f : Word) : BitVec 4 := f.extractLsb' 44 4

/-- `serial`, bits 43..24, opaque to the block (R74). -/
def serialOf (f : Word) : BitVec 20 := f.extractLsb' 24 20

/-- `type`, bits 23..16, opaque to the block (R74). -/
def typeOf (f : Word) : BitVec 8 := f.extractLsb' 16 8

/-- `crc`, bits 15..0 (R74). -/
def crcOf (f : Word) : BitVec 16 := f.extractLsb' 0 16

/-- `payload48`, bits 47..0 (R74). -/
def payload48 (f : Word) : BitVec 48 := f.extractLsb' 0 48

/-- The delivered frame with these fields (R74, R75). -/
def frameWord (sof : BitVec 4) (serial : BitVec 20) (ty : BitVec 8) (crc : BitVec 16) : Word :=
  0xFFFE#16 ++ sof ++ serial ++ ty ++ crc

/-- The selector operand of `CRC_CHECK`: `AUTO` or `FORCE(p)` (R78, R160). -/
inductive Selector where
  | auto
  | force (p : Poly)
  deriving DecidableEq, Repr

/-- The dividend: `f` with its sync bits stripped (R80, R166). -/
def dividend (f : Word) : Word := f &&& ~~~Config.syncMask

/-- A polynomial zero-extended to the working width (R166). -/
def polyWord (p : Poly) : Word := p.setWidth 64

/-- The initial divisor, the polynomial shifted left by 31 (R80, R166). -/
def initialDivisor (p : Poly) : Word := polyWord p <<< Config.divShift

end Sys2Proof.Machine
end

