-- ==== Sys2Proof/Machine/Flags.lean ====
section
/-!
DEFINITION. Everything a step computes and does not store: the sync test (R75), the CRC division and its
result (43_crc_validator.md), the brand table (R77, R162 to R165), the frame event's outputs (R192), and
the output ports as R28 lists them.
-/

namespace Sys2Proof.Machine

/-- The framer's test on the register after a shift (R75, R140): 16 bits, 0xFFFE (conflict C1). -/
def syncMatch (r : Word) : Bool := r &&& Config.syncMask == Config.syncPattern

/-- The number of leading zeros among bits `n-1 .. 0` of `v`. -/
def leadingZeros : Nat → Word → Nat
  | 0, _ => 0
  | n + 1, v => if v.getLsbD n then 0 else leadingZeros n v + 1

/-- `clz64` (R10). It is 64 at zero (DESIGN CHOICE of the spec, its D13, R167; log entry 22). -/
def clz64 (v : Word) : Nat := leadingZeros 64 v

/-- One pass of the division's loop body on `sum` (R166). -/
def divideSum (sum divisor : Word) : Word :=
  if clz64 sum = clz64 divisor then sum ^^^ divisor else sum

/-- The loop of R166: while `divisor >= p`. The first argument bounds the passes; it is given as the
register width, more than the 32 passes the loop makes (R168). -/
def divideLoop : Nat → Word → Word → Word → Word
  | 0, _, sum, _ => sum
  | n + 1, p, sum, divisor =>
    if p ≤ divisor then divideLoop n p (divideSum sum divisor) (divisor >>> 1) else sum

/-- The final `sum` of R166 on the value `f` and the polynomial `p`. -/
def finalSum (f : Word) (p : Poly) : Word :=
  divideLoop 64 (polyWord p) (dividend f) (initialDivisor p)

/-- `DIVIDES(f, p)` (R166). -/
def divides (f : Word) (p : Poly) : Bit := finalSum f p == 0

/-- One step of the 16-bit shift register of R170, fed with the bit `b`. -/
def remainderStep (p : Poly) (r : BitVec 16) (b : Bit) : BitVec 16 :=
  let shifted := (r <<< 1) ||| (if b then 1#16 else 0#16)
  if r.getLsbD 15 then shifted ^^^ p.extractLsb' 0 16 else shifted

/-- The register of R170 after bits `n-1 .. 0` of `f`, highest first. -/
def remainderFrom : Nat → Word → Poly → BitVec 16 → BitVec 16
  | 0, _, _, r => r
  | n + 1, f, p, r => remainderFrom n f p (remainderStep p r (f.getLsbD n))

/-- `REMAINDER16(f, p)`, the bit-serial form of the division (R170). -/
def remainder16 (f : Word) (p : Poly) : BitVec 16 := remainderFrom 48 f p 0

/-- `POLY.2GIG` (R162). -/
def selection2gig : Selection := ⟨.gig2, Config.poly2gig, false⟩

/-- `POLY.HONEYWELL` (R163). -/
def selectionHoneywell : Selection := ⟨.honeywell, Config.polyHoneywell, false⟩

/-- `POLY.VIVINT`, the polynomial flagged as assumed (R164). -/
def selectionVivint : Selection := ⟨.vivint, Config.polyVivint, true⟩

/-- `POLY.OTHER` (R165). -/
def selectionOther : Selection := ⟨.unknown, Config.polyDefault, false⟩

/-- The brand table as the `if` chain of R161. -/
def brandTable (sof : BitVec 4) : Selection :=
  if sof ∈ [0x2#4, 0x3#4, 0x4#4, 0x7#4, 0x9#4, 0xA#4, 0xB#4, 0xC#4, 0xF#4] then selection2gig
  else if sof = 0x8#4 then selectionHoneywell
  else if sof ∈ [0xD#4, 0xE#4] then selectionVivint
  else selectionOther

/-- `SELECT_POLY(f, sel)` (R161). -/
def selectPoly (f : Word) : Selector → Poly
  | .force p => p
  | .auto => (brandTable (sofOf f)).polyUsed

/-- `CRC_CHECK(f, sel)` (R160). -/
def crcCheck (f : Word) (sel : Selector) : Bit := divides f (selectPoly f sel)

/-- `FRAME_EVENT(f)` (R192). -/
def frameEvent (f : Word) : FrameOut where
  frame := f
  sof := sofOf f
  brand := (brandTable (sofOf f)).brand
  polyUsed := selectPoly f .auto
  polyAssumed := (brandTable (sofOf f)).polyAssumed
  crcOkAuto := crcCheck f .auto
  crcOk2gig := crcCheck f (.force Config.poly2gig)

/-- The output `chip_valid` (R28). -/
def Outputs.chipValid (o : Outputs) : Bit := o.chip.isSome

/-- The output `bit_valid` (R28). -/
def Outputs.bitValid (o : Outputs) : Bit := o.bit.isSome

/-- The output `frame_valid` (R28). -/
def Outputs.frameValid (o : Outputs) : Bit := o.frame.isSome

/-- The output `brand[1:0]`, absent without a frame (R28, R79). -/
def Outputs.brandCode (o : Outputs) : Option (BitVec 2) := o.frame.map fun f => f.brand.code

end Sys2Proof.Machine
end

