-- ==== Sys2Proof/Machine/Ops.lean ====
section
/-!
DEFINITION. The named operations over the state: the updates, and the stage procedures RECOVER,
DECODE_CHIP, SHIFT_IN and FRAME_EVENT composed by `emit` (R11, R100, R120, R140, R190, R192), RESET
(R230), and the two guards. The block has no memory (R50) and takes no exception and returns from none
(R210, R215, R216), so no operation for either stands here.
-/

namespace Sys2Proof.Machine

/-- The outcome of an operation. -/
abbrev Result := Host.Outcome State Fault Refusal

/-- All strobes 0: how every step begins (R190). -/
def State.quiet (s : State) : State := { s with out := {} }

/-- Write the recoverer's two fields (R100). -/
def State.setRecoverer (s : State) (level : Bit) (count : Nat) : State :=
  { s with lastSample := level, samplesSinceEdge := count }

/-- Write the decoder's state (R120). -/
def State.setMState (s : State) (m : MState) : State := { s with mstate := m }

/-- Write the framer's register (R140). -/
def State.setSreg (s : State) (r : Word) : State := { s with sreg := r }

/-- Assert `chip_valid` with this chip (R190). -/
def State.putChip (s : State) (c : Bit) : State := { s with out := { s.out with chip := some c } }

/-- Assert `bit_valid` with this data bit (R190). -/
def State.putBit (s : State) (d : Bit) : State := { s with out := { s.out with bit := some d } }

/-- Assert `frame_valid` with these outputs (R190). -/
def State.putFrame (s : State) (f : FrameOut) : State := { s with out := { s.out with frame := some f } }

/-- Present the result of a brand selection run alone (log entry 9). -/
def State.putSelection (s : State) (x : Selection) : State :=
  { s with out := { s.out with selection := some x } }

/-- Present the Boolean of a separate `CRC_CHECK` (R160, log entry 10). -/
def State.putCrc (s : State) (ok : Bit) : State := { s with out := { s.out with crcOk := some ok } }

/-- The host's queue after its first event was consumed. -/
def State.setInput (s : State) (es : List Event) : State := { s with input := es }

/-- Fix `SPB`: the host's act before reset (R231), never a step's. -/
def State.setSpb (s : State) (n : Nat) : State := { s with spb := n }

/-- The delivery of the frame `f`: the register is zeroed and the frame event's outputs are presented
(R140, R143, R144, R192). -/
def State.deliver (s : State) (f : Word) : State := (s.setSreg 0).putFrame (frameEvent f)

/-- The register after the shift: the new bit into bit 0, old bit 63 discarded (R140; C4, the spec's D8,
log entry 19). -/
def shifted (r : Word) (d : Bit) : Word := (r <<< 1) ||| bitWord d

/-- `SHIFT_IN(d)` (R140). -/
def State.shiftIn (s : State) (d : Bit) : State :=
  if syncMatch (shifted s.sreg d) then s.deliver (shifted s.sreg d) else s.setSreg (shifted s.sreg d)

/-- `emit bit(d)` (R190). -/
def State.emitBit (s : State) (d : Bit) : State := (s.putBit d).shiftIn d

/-- The state the decoder goes to (R120). -/
def nextMState (m : MState) (c : Bit) : MState :=
  match m with
  | .lowPhaseA => if c then .highPhaseB else .lowPhaseA
  | .lowPhaseB => if c then .highPhaseA else .lowPhaseA
  | .highPhaseA => if c then .highPhaseA else .lowPhaseB
  | .highPhaseB => if c then .highPhaseA else .lowPhaseA

/-- The data bit the decoder emits on any chip: the one pending in its state (R120, R25). -/
def pendingBit : MState → Option Bit
  | .lowPhaseA => none
  | .lowPhaseB => some false
  | .highPhaseA => none
  | .highPhaseB => some true

/-- A transition of the decoder: to `m`, emitting nothing. -/
def State.goSilent (s : State) (m : MState) : State := s.setMState m

/-- A transition of the decoder: to `m`, then the data bit `d` is emitted. -/
def State.goEmitting (s : State) (m : MState) (d : Bit) : State := (s.setMState m).emitBit d

/-- `DECODE_CHIP(c)` (R120). -/
def State.decodeChip (s : State) (c : Bit) : State :=
  match pendingBit s.mstate with
  | none => s.goSilent (nextMState s.mstate c)
  | some d => s.goEmitting (nextMState s.mstate c) d

/-- `emit chip(c)` (R190). -/
def State.emitChip (s : State) (c : Bit) : State := (s.putChip c).decodeChip c

/-- The test of R100, on the counter after its increment. -/
def chipDue (spb count : Nat) : Bool := count % spb == Config.half spb

/-- `RECOVER(v)` (R100). The last line of R100, the write of `lastSample`, stands first here, as R100
allows (the spec's D4, log entry 16). -/
def State.recover (s : State) (v : Bit) : State :=
  if v == s.lastSample then
    let t := s.setRecoverer v (s.samplesSinceEdge + 1)
    if chipDue s.spb (s.samplesSinceEdge + 1) then t.emitChip v else t
  else s.setRecoverer v 1

/-- `RESET` (R230). The parameter and the events still to come are not the block's (log entry 25). -/
def State.resetBlock (s : State) : State :=
  (((s.quiet).setRecoverer false 0).setMState .lowPhaseA).setSreg 0

/-- The configuration the model admits (R108, X1). -/
def State.admitted (s : State) : Bool := Config.spbMin ≤ s.spb

/-- A step of stage 1 on a valid sample (R101, R102), refused where `SPB` is not admitted (X1). -/
def State.sampleStep (s : State) (v : Bit) : Result :=
  if s.admitted then .next (s.quiet.recover v) else .refused .spbNotAdmitted

/-- A transition row run where the decoder is in the row's state `m`; elsewhere no row of this state is
selected (R70; log entry 8). -/
def State.inMState (s : State) (m : MState) (t : State) : Result :=
  if s.mstate = m then .next t else .refused .rowNotSelected

end Sys2Proof.Machine
end

