-- ==== Sys2Proof/Machine/Framer.lean ====
section
/-!
DEFINITION. Stage 3, the framer: BIT0, BIT1 and the delivery FRAME (42_framer.md).
-/

namespace Sys2Proof.Machine

/-- `BIT0`: SHIFT_IN(0) (R141). -/
def execBit0 (s : State) : Result := .next (s.quiet.shiftIn false)

/-- `BIT1`: SHIFT_IN(1) (R142). -/
def execBit1 (s : State) : Result := .next (s.quiet.shiftIn true)

/-- `FRAME`: the `then` branch of SHIFT_IN, with the frame standing in `sreg` (R143, R144). Where `sreg`
is not this frame the row is not selected (log entry 8). -/
def execFrame (sof : BitVec 4) (serial : BitVec 20) (ty : BitVec 8) (crc : BitVec 16) (s : State) :
    Result :=
  if s.sreg = frameWord sof serial ty crc then .next (s.quiet.deliver (frameWord sof serial ty crc))
  else .refused .rowNotSelected

end Sys2Proof.Machine
end

