-- ==== Sys2Proof/Machine/Manchester.lean ====
section
/-!
DEFINITION. Stage 2, the eight transitions of the Manchester decoder (41_manchester_decoder.md), each
with the next state and the data bit of its own rule. A row has its effect in the decoder state it
names, which is part of its word (R70); `step` forms that word from the decoder's state, so it never
meets another (log entry 8).
-/

namespace Sys2Proof.Machine

/-- `MAN.LOW_PHASE_A.0` (R121). -/
def execManLowPhaseA0 (s : State) : Result := s.inMState .lowPhaseA (s.quiet.goSilent .lowPhaseA)

/-- `MAN.LOW_PHASE_A.1` (R122). -/
def execManLowPhaseA1 (s : State) : Result := s.inMState .lowPhaseA (s.quiet.goSilent .highPhaseB)

/-- `MAN.LOW_PHASE_B.0` (R123). -/
def execManLowPhaseB0 (s : State) : Result :=
  s.inMState .lowPhaseB (s.quiet.goEmitting .lowPhaseA false)

/-- `MAN.LOW_PHASE_B.1` (R124). -/
def execManLowPhaseB1 (s : State) : Result :=
  s.inMState .lowPhaseB (s.quiet.goEmitting .highPhaseA false)

/-- `MAN.HIGH_PHASE_A.0` (R125). -/
def execManHighPhaseA0 (s : State) : Result := s.inMState .highPhaseA (s.quiet.goSilent .lowPhaseB)

/-- `MAN.HIGH_PHASE_A.1` (R126). -/
def execManHighPhaseA1 (s : State) : Result := s.inMState .highPhaseA (s.quiet.goSilent .highPhaseA)

/-- `MAN.HIGH_PHASE_B.0` (R127). -/
def execManHighPhaseB0 (s : State) : Result :=
  s.inMState .highPhaseB (s.quiet.goEmitting .lowPhaseA true)

/-- `MAN.HIGH_PHASE_B.1` (R128). -/
def execManHighPhaseB1 (s : State) : Result :=
  s.inMState .highPhaseB (s.quiet.goEmitting .highPhaseA true)

end Sys2Proof.Machine
end

