-- ==== Sys2Proof/Machine/Recoverer.lean ====
section
/-!
DEFINITION. Stage 1, the bit-clock recoverer: SMP0, SMP1 and the seven rows of SMPX
(40_bit_clock_recoverer.md).
-/

namespace Sys2Proof.Machine

/-- `SMP0`: RECOVER(0) (R101). -/
def execSmp0 (s : State) : Result := s.sampleStep false

/-- `SMP1`: RECOVER(1) (R102). -/
def execSmp1 (s : State) : Result := s.sampleStep true

/-- `SMPX.b7`: the byte is dropped, all strobes 0 (R103). -/
def execSmpxB7 (_x : BitVec 7) (s : State) : Result := .next s.quiet

/-- `SMPX.b6` (R103). -/
def execSmpxB6 (_x : BitVec 6) (s : State) : Result := .next s.quiet

/-- `SMPX.b5` (R103). -/
def execSmpxB5 (_x : BitVec 5) (s : State) : Result := .next s.quiet

/-- `SMPX.b4` (R103). -/
def execSmpxB4 (_x : BitVec 4) (s : State) : Result := .next s.quiet

/-- `SMPX.b3` (R103). -/
def execSmpxB3 (_x : BitVec 3) (s : State) : Result := .next s.quiet

/-- `SMPX.b2` (R103). -/
def execSmpxB2 (_x : BitVec 2) (s : State) : Result := .next s.quiet

/-- `SMPX.b1` (R103). -/
def execSmpxB1 (_x : BitVec 1) (s : State) : Result := .next s.quiet

end Sys2Proof.Machine
end

