-- ==== Sys2Proof/Machine/Reset.lean ====
section
/-!
DEFINITION. RESET (70_reset_and_hazards.md R230).
-/

namespace Sys2Proof.Machine

/-- `RESET`: the four fields take the values of R29 and no output is asserted (R230). -/
def execReset (s : State) : Result := .next s.resetBlock

end Sys2Proof.Machine
end

