-- ==== Sys2Proof/Machine/Validator.lean ====
section
/-!
DEFINITION. Stage 4, the CRC-16 validator: the sixteen brand selections POLY.*, CRC_CHECK with its two
selector forms, and the reserved selector (43_crc_validator.md). None of them writes a field of R20
(R160, R171).
-/

namespace Sys2Proof.Machine

/-- `POLY.OTHER.sof0` (R165; run alone, log entry 9). -/
def execPolyOtherSof0 (s : State) : Result := .next (s.quiet.putSelection selectionOther)

/-- `POLY.OTHER.sof1` (R165; run alone, log entry 9). -/
def execPolyOtherSof1 (s : State) : Result := .next (s.quiet.putSelection selectionOther)

/-- `POLY.2GIG.sof2` (R162; run alone, log entry 9). -/
def execPoly2gigSof2 (s : State) : Result := .next (s.quiet.putSelection selection2gig)

/-- `POLY.2GIG.sof3` (R162; run alone, log entry 9). -/
def execPoly2gigSof3 (s : State) : Result := .next (s.quiet.putSelection selection2gig)

/-- `POLY.2GIG.sof4` (R162; run alone, log entry 9). -/
def execPoly2gigSof4 (s : State) : Result := .next (s.quiet.putSelection selection2gig)

/-- `POLY.OTHER.sof5` (R165; run alone, log entry 9). -/
def execPolyOtherSof5 (s : State) : Result := .next (s.quiet.putSelection selectionOther)

/-- `POLY.OTHER.sof6` (R165; run alone, log entry 9). -/
def execPolyOtherSof6 (s : State) : Result := .next (s.quiet.putSelection selectionOther)

/-- `POLY.2GIG.sof7` (R162; run alone, log entry 9). -/
def execPoly2gigSof7 (s : State) : Result := .next (s.quiet.putSelection selection2gig)

/-- `POLY.HONEYWELL.sof8` (R163; run alone, log entry 9). -/
def execPolyHoneywellSof8 (s : State) : Result := .next (s.quiet.putSelection selectionHoneywell)

/-- `POLY.2GIG.sof9` (R162; run alone, log entry 9). -/
def execPoly2gigSof9 (s : State) : Result := .next (s.quiet.putSelection selection2gig)

/-- `POLY.2GIG.sofA` (R162; run alone, log entry 9). -/
def execPoly2gigSofA (s : State) : Result := .next (s.quiet.putSelection selection2gig)

/-- `POLY.2GIG.sofB` (R162; run alone, log entry 9). -/
def execPoly2gigSofB (s : State) : Result := .next (s.quiet.putSelection selection2gig)

/-- `POLY.2GIG.sofC` (R162; run alone, log entry 9). -/
def execPoly2gigSofC (s : State) : Result := .next (s.quiet.putSelection selection2gig)

/-- `POLY.VIVINT.sofD` (R164; run alone, log entry 9). -/
def execPolyVivintSofD (s : State) : Result := .next (s.quiet.putSelection selectionVivint)

/-- `POLY.VIVINT.sofE` (R164; run alone, log entry 9). -/
def execPolyVivintSofE (s : State) : Result := .next (s.quiet.putSelection selectionVivint)

/-- `POLY.2GIG.sofF` (R162; run alone, log entry 9). -/
def execPoly2gigSofF (s : State) : Result := .next (s.quiet.putSelection selection2gig)

/-- `CRC.AUTO`: CRC_CHECK(f, AUTO), `force_poly` ignored (R78, R160). -/
def execCrcAuto (_x : BitVec 17) (f : Word) (s : State) : Result :=
  .next (s.quiet.putCrc (crcCheck f .auto))

/-- `CRC.FORCE`: CRC_CHECK(f, FORCE(p)) (R78, R160). A `p` without bit 16 is refused (R174, X2); it is
ill formed and no word decodes to it. -/
def execCrcForce (p : Poly) (f : Word) (s : State) : Result :=
  if polyAdmitted p then .next (s.quiet.putCrc (crcCheck f (.force p)))
  else .refused .polynomialNotAdmitted

/-- `SEL.RESERVED`: "reserved: a model refuses it" (R78, R81, R174, X2). -/
def execSelReserved (_x : BitVec 16) (_f : Word) (_s : State) : Result := .refused .reservedSelector

end Sys2Proof.Machine
end

