-- ==== Sys2Proof/Machine/Dispatch.lean ====
section
/-!
DEFINITION. The dispatch: one arm per row of the opcode table, in its order.
-/

namespace Sys2Proof.Machine

def exec (i : Instr) (s : State) : Host.Outcome State Fault Refusal :=
  match i with
  | .smp0 => Sys2Proof.Machine.execSmp0 s
  | .smp1 => Sys2Proof.Machine.execSmp1 s
  | .smpxB7 x => Sys2Proof.Machine.execSmpxB7 x s
  | .smpxB6 x => Sys2Proof.Machine.execSmpxB6 x s
  | .smpxB5 x => Sys2Proof.Machine.execSmpxB5 x s
  | .smpxB4 x => Sys2Proof.Machine.execSmpxB4 x s
  | .smpxB3 x => Sys2Proof.Machine.execSmpxB3 x s
  | .smpxB2 x => Sys2Proof.Machine.execSmpxB2 x s
  | .smpxB1 x => Sys2Proof.Machine.execSmpxB1 x s
  | .manLowPhaseA0 => Sys2Proof.Machine.execManLowPhaseA0 s
  | .manLowPhaseA1 => Sys2Proof.Machine.execManLowPhaseA1 s
  | .manLowPhaseB0 => Sys2Proof.Machine.execManLowPhaseB0 s
  | .manLowPhaseB1 => Sys2Proof.Machine.execManLowPhaseB1 s
  | .manHighPhaseA0 => Sys2Proof.Machine.execManHighPhaseA0 s
  | .manHighPhaseA1 => Sys2Proof.Machine.execManHighPhaseA1 s
  | .manHighPhaseB0 => Sys2Proof.Machine.execManHighPhaseB0 s
  | .manHighPhaseB1 => Sys2Proof.Machine.execManHighPhaseB1 s
  | .bit0 => Sys2Proof.Machine.execBit0 s
  | .bit1 => Sys2Proof.Machine.execBit1 s
  | .frame sof serial ty crc => Sys2Proof.Machine.execFrame sof serial ty crc s
  | .polyOtherSof0 => Sys2Proof.Machine.execPolyOtherSof0 s
  | .polyOtherSof1 => Sys2Proof.Machine.execPolyOtherSof1 s
  | .poly2gigSof2 => Sys2Proof.Machine.execPoly2gigSof2 s
  | .poly2gigSof3 => Sys2Proof.Machine.execPoly2gigSof3 s
  | .poly2gigSof4 => Sys2Proof.Machine.execPoly2gigSof4 s
  | .polyOtherSof5 => Sys2Proof.Machine.execPolyOtherSof5 s
  | .polyOtherSof6 => Sys2Proof.Machine.execPolyOtherSof6 s
  | .poly2gigSof7 => Sys2Proof.Machine.execPoly2gigSof7 s
  | .polyHoneywellSof8 => Sys2Proof.Machine.execPolyHoneywellSof8 s
  | .poly2gigSof9 => Sys2Proof.Machine.execPoly2gigSof9 s
  | .poly2gigSofA => Sys2Proof.Machine.execPoly2gigSofA s
  | .poly2gigSofB => Sys2Proof.Machine.execPoly2gigSofB s
  | .poly2gigSofC => Sys2Proof.Machine.execPoly2gigSofC s
  | .polyVivintSofD => Sys2Proof.Machine.execPolyVivintSofD s
  | .polyVivintSofE => Sys2Proof.Machine.execPolyVivintSofE s
  | .poly2gigSofF => Sys2Proof.Machine.execPoly2gigSofF s
  | .crcAuto x f => Sys2Proof.Machine.execCrcAuto x f s
  | .crcForce p f => Sys2Proof.Machine.execCrcForce p f s
  | .selReserved x f => Sys2Proof.Machine.execSelReserved x f s
  | .reset => Sys2Proof.Machine.execReset s

end Sys2Proof.Machine
end

