-- ==== Sys2Proof/Machine/Fetch.lean ====
section
/-!
DEFINITION. How an input event becomes the word of a stage (R70, R82), and how a word of the opcode table
is placed so that the next step runs it. The block fetches no instructions (R59); the nearest thing is
taking the next event of the host's stream (R51).
-/

namespace Sys2Proof.Machine

/-- The word an event puts at the input of its stage. The `MAN` word is formed with the decoder's state
and the `FRM` word is the framer's register (R70). -/
def portWord (e : Event) (s : State) : PortWord :=
  match e with
  | .sample b => .smp b
  | .reset => .reset
  | .crc sel f => .sel sel f
  | .chip c => .man (manWord s.mstate c)
  | .dbit d => .dbit (BitVec.ofBool d)
  | .syncTest => .frm s.sreg
  | .brandOf sof => .sof sof

/-- Present an event before all others. -/
def State.present (s : State) (e : Event) : State := s.setInput (e :: s.input)

/-- Place a word so that the next step decodes exactly it. A `MAN` word carries the decoder's state and
an `FRM` word is the register, so placing one sets that field (log entry 12). -/
def placeWord (s : State) : PortWord → State
  | .smp b => s.present (.sample b)
  | .man w => (s.setMState (mstateOfCode (w.extractLsb' 1 2))).present (.chip (w.getLsbD 0))
  | .dbit w => s.present (.dbit (w.getLsbD 0))
  | .frm w => (s.setSreg w).present .syncTest
  | .sof w => s.present (.brandOf w)
  | .sel w f => s.present (.crc w f)
  | .reset => s.present .reset

/-- Place the word of `nbits` bits and value `w`; a width of no format places nothing. -/
def placeTableWord (s : State) (nbits w : Nat) : State :=
  match tablePortWord nbits w with
  | some p => placeWord s p
  | none => s

end Sys2Proof.Machine
end

