-- ==== Sys2Proof/Machine/Step.lean ====
section
/-!
DEFINITION. One step of the block: the next input event, through all four stages (R5, R190).
-/

namespace Sys2Proof.Machine

/-- One step. A configuration that is not admitted is refused (X1, R108). With nothing presented the
block holds its state and asserts nothing (R221, log entry 5). Otherwise the next event is consumed, its
word decoded and the instruction run; a failed sync test delivers nothing (R140). -/
def step (s : State) : Host.Outcome State Fault Refusal :=
  if s.admitted then
    match s.input with
    | [] => .next s.quiet
    | e :: rest =>
      match decode (portWord e s) with
      | .ok i => exec i (s.setInput rest)
      | .error .noSync => .next (s.setInput rest).quiet
  else .refused .spbNotAdmitted

/-- `s` with the instruction of `nbits` bits and value `w` placed where the next step takes its word
(log entry 12). -/
def State.withFetchWord (s : State) (nbits w : Nat) : State := placeTableWord s nbits w

end Sys2Proof.Machine
end

