-- ==== Sys2Proof/Machine/Stimulus.lean ====
section
/-!
DEFINITION. The stimulus notation: the items and pseudo-items of 30_encoding.md R82 and R83 as lists of
input events (the spec's D17), and the generation of check bits (R176). Nothing here is behaviour of the
block; these are the inputs claims and tests are stated over.
-/

namespace Sys2Proof.Machine

/-- The sample byte of a level (R71, R82). -/
def levelByte (v : Bit) : Byte := if v then 0x01 else 0x00

/-- `S0`, `S1` (R82). -/
def sampleOf (v : Bit) : Event := .sample (levelByte v)

/-- `n` samples of the level `v`. -/
def runOf (n : Nat) (v : Bit) : List Event := List.replicate n (sampleOf v)

/-- `IDLE(n)` (R83). -/
def idleSamples (n : Nat) : List Event := runOf n false

/-- `CHIP(c)`: one nominal chip at sample level (R83). -/
def chipSamples (spb : Nat) (c : Bit) : List Event := runOf spb c

/-- `SYM(d)`: (0,1) for 1 and (1,0) for 0, at sample level (R72, R83). -/
def symbolSamples (spb : Nat) (d : Bit) : List Event := chipSamples spb (!d) ++ chipSamples spb d

/-- `MSYM(d)`: the same at chip level (R83). -/
def symbolChips (d : Bit) : List Event := [.chip (!d), .chip d]

/-- Bits `n-1 .. 0` of a value, highest first. -/
def bitsFrom (n : Nat) (f : Word) : List Bit :=
  match n with
  | 0 => []
  | k + 1 => f.getLsbD k :: bitsFrom k f

/-- `FRAMEBITS(f)` (R83). -/
def frameBits (f : Word) : List Event := (bitsFrom 64 f).map .dbit

/-- `FRAMESYMS(f)` (R83). -/
def frameSymbols (spb : Nat) (f : Word) : List Event := (bitsFrom 64 f).flatMap (symbolSamples spb)

/-- The check bits that make the 32-bit message `m` valid under `p`: the remainder of `m << 16` (R176). -/
def checkBits (m : BitVec 32) (p : Poly) : BitVec 16 :=
  (finalSum ((m ++ 0#16).setWidth 64) p).extractLsb' 0 16

/-- The frame of the message `m` under `p` (R176). -/
def frameOfMessage (m : BitVec 32) (p : Poly) : Word := 0xFFFE#16 ++ m ++ checkBits m p

end Sys2Proof.Machine
end

