-- ==== Sys2Proof/Safety.lean ====
section
/-!
DEFINITION. The terms claims use: the observation of a run (44_pipeline.md R193), the invariants of the
state (10_state.md R20, R24, R27), the relation between a state and one with a wrapped counter (R22), and
the consumer's reading of the outputs (R195, R211; the consumer is out of scope).
-/

namespace Sys2Proof.Machine

/-- The states after each of the next `n` steps, up to a refusal. -/
def states : Nat → State → List State
  | 0, _ => []
  | n + 1, s =>
    match step s with
    | .next t => t :: states n t
    | .fault _ => []
    | .refused _ => []

/-- The outputs of the next `n` steps (R193). -/
def observed (n : Nat) (s : State) : List Outputs := (states n s).map State.out

/-- The chips among a list of outputs, in step order. -/
def chipsIn (os : List Outputs) : List Bit := os.filterMap Outputs.chip

/-- The data bits among a list of outputs, in step order. -/
def bitsIn (os : List Outputs) : List Bit := os.filterMap Outputs.bit

/-- The frame events among a list of outputs, in step order: the block's product (R193). -/
def framesIn (os : List Outputs) : List FrameOut := os.filterMap Outputs.frame

/-- Frame events with the number of the step that produced each, the first output being step `k` (R193). -/
def numberedFrames : Nat → List Outputs → List (Nat × FrameOut)
  | _, [] => []
  | k, o :: os =>
    match o.frame with
    | some f => (k, f) :: numberedFrames (k + 1) os
    | none => numberedFrames (k + 1) os

/-- Between steps the register's top 16 bits are not the sync pattern (R24). -/
abbrev State.SyncFree (s : State) : Prop := syncOf s.sreg ≠ 0xFFFE#16

/-- The counter is 0 only in a state that no valid sample has left since reset (R20, R22, R29). -/
abbrev State.CounterFresh (s : State) : Prop := s.samplesSinceEdge = 0 → s.lastSample = false

/-- The invariant of a state between steps. -/
abbrev State.Inv (s : State) : Prop := s.SyncFree ∧ s.CounterFresh ∧ Config.spbMin ≤ s.spb

/-- Two states that differ at most in the counter, and there by a multiple of `SPB` (R22). -/
def SamePhase (s t : State) : Prop :=
  t = { s with samplesSinceEdge := t.samplesSinceEdge } ∧
    s.samplesSinceEdge % s.spb = t.samplesSinceEdge % s.spb

/-- Two states alike to stage 1: what the recoverer reads (R2). -/
def AlikeToRecoverer (s t : State) : Prop :=
  s.lastSample = t.lastSample ∧ s.samplesSinceEdge = t.samplesSinceEdge ∧ s.spb = t.spb

/-- The consumer's `validSensor` (R195; out of scope, information). -/
def FrameOut.validSensor (f : FrameOut) : Bit := f.crcOkAuto

/-- The consumer's `validKeypad` (R195; out of scope, information). -/
def FrameOut.validKeypad (f : FrameOut) : Bit := f.crcOk2gig && f.frame.getLsbD 16

/-- The consumer's `validKeyfob` (R195; out of scope, information). -/
def FrameOut.validKeyfob (f : FrameOut) : Bit := f.crcOk2gig && f.frame.getLsbD 17

/-- "Frame failed all three CRC attempts" (R195, R211). -/
def FrameOut.failsAll (f : FrameOut) : Bit := !(f.validSensor || f.validKeypad || f.validKeyfob)

end Sys2Proof.Machine
end

