-- ==== Sys2Proof/Certificates/Slice0/Obligations.lean ====
section
/-!
DEFINITION. The statements for the provers, in the order of OBLIGATIONS.json. An equation of a whole
next state says the instruction's frame too: every field it does not write stands in it unchanged.
-/

open Sys2Proof Sys2Proof.Machine

/-! ### The step -/

/-- R5, R57, R190: the next event is consumed and the instruction its word decodes to is run on the state
without it; nothing else happens around it. -/
def Obligations.StepRunsDecodedEvent : Prop :=
  ∀ (s : State) (e : Event) (rest : List Event) (i : Instr),
    4 ≤ s.spb → s.input = e :: rest → decode (portWord e s) = .ok i →
    step s = exec i { s with input := rest }

/-- R221: with nothing presented a step completes and every field keeps its value; that the outputs are then
deasserted is the model's choice (log entry 5). -/
def Obligations.StepWithoutInputHoldsState : Prop :=
  ∀ s : State, 4 ≤ s.spb → s.input = [] → step s = .next { s with out := {} }

/-- R108, X1: a configuration with `SPB` below 4 is refused by name, by `step` and by SMP0 and SMP1 run alone
(the spec's own decision D5; log entry 13). -/
def Obligations.SmallSpbIsRefused : Prop :=
  ∀ s : State, s.spb < 4 →
    step s = .refused .spbNotAdmitted ∧
    exec .smp0 s = .refused .spbNotAdmitted ∧ exec .smp1 s = .refused .spbNotAdmitted

/-! ### Stage 1 -/

/-- R100 to R102, an edge: no chip, the counter becomes 1, every other field keeps its value
(the write of `lastSample` is the spec's D4, log entry 16). -/
def Obligations.EdgeSampleRestartsCounter : Prop :=
  ∀ s : State, 4 ≤ s.spb →
    (s.lastSample = true →
      exec .smp0 s = .next { s with lastSample := false, samplesSinceEdge := 1, out := {} }) ∧
    (s.lastSample = false →
      exec .smp1 s = .next { s with lastSample := true, samplesSinceEdge := 1, out := {} })

/-- R100 to R102, a same-level sample that is not at the sampling instant: the counter advances by 1, nothing
is emitted and every other field keeps its value. -/
def Obligations.SameLevelSampleCounts : Prop :=
  ∀ s : State, 4 ≤ s.spb → (s.samplesSinceEdge + 1) % s.spb ≠ s.spb / 2 →
    (s.lastSample = false →
      exec .smp0 s = .next { s with samplesSinceEdge := s.samplesSinceEdge + 1, out := {} }) ∧
    (s.lastSample = true →
      exec .smp1 s = .next { s with samplesSinceEdge := s.samplesSinceEdge + 1, out := {} })

/-- R100, R120, R190: at the sampling instant a chip is emitted; with nothing pending no data bit follows. -/
def Obligations.SampleEmitsChip : Prop :=
  ∀ s : State, 4 ≤ s.spb → (s.samplesSinceEdge + 1) % s.spb = s.spb / 2 →
    (s.lastSample = false → s.mstate = .lowPhaseA →
      exec .smp0 s = .next { s with
        samplesSinceEdge := s.samplesSinceEdge + 1, mstate := .lowPhaseA,
        out := { chip := some false } }) ∧
    (s.lastSample = false → s.mstate = .highPhaseA →
      exec .smp0 s = .next { s with
        samplesSinceEdge := s.samplesSinceEdge + 1, mstate := .lowPhaseB,
        out := { chip := some false } }) ∧
    (s.lastSample = true → s.mstate = .lowPhaseA →
      exec .smp1 s = .next { s with
        samplesSinceEdge := s.samplesSinceEdge + 1, mstate := .highPhaseB,
        out := { chip := some true } }) ∧
    (s.lastSample = true → s.mstate = .highPhaseA →
      exec .smp1 s = .next { s with
        samplesSinceEdge := s.samplesSinceEdge + 1, mstate := .highPhaseA,
        out := { chip := some true } })

/-- R100, R120, R140, R190: a chip that finds a data bit `d` pending releases it into the register
(direction of the shift: the spec's D8, log entry 19); here the shift completes no sync pattern. -/
def Obligations.SampleReleasesPendingBit : Prop :=
  ∀ (s : State) (d : Bit), 4 ≤ s.spb → (s.samplesSinceEdge + 1) % s.spb = s.spb / 2 →
    s.mstate = (if d then .highPhaseB else .lowPhaseB) →
    ((s.sreg <<< 1) ||| (if d then 1 else 0)).extractLsb' 48 16 ≠ 0xFFFE#16 →
    (s.lastSample = false →
      exec .smp0 s = .next { s with
        samplesSinceEdge := s.samplesSinceEdge + 1, mstate := .lowPhaseA,
        sreg := (s.sreg <<< 1) ||| (if d then 1 else 0),
        out := { chip := some false, bit := some d } }) ∧
    (s.lastSample = true →
      exec .smp1 s = .next { s with
        samplesSinceEdge := s.samplesSinceEdge + 1, mstate := .highPhaseA,
        sreg := (s.sreg <<< 1) ||| (if d then 1 else 0),
        out := { chip := some true, bit := some d } })

/-- R100, R120, R140, R143, R144, R190, R192: the same where the shift completes the sync pattern: the
frame is delivered with its outputs and the register is zeroed, all in one step. Three of these are choices of
the spec, not the document's: the direction of the shift (D8) and the 16-bit compare with 0xFFFE (D9; both log
entry 19), and that the frame's outputs accompany it in the delivering step (D14, log entry 21). -/
def Obligations.SampleDeliversFrame : Prop :=
  ∀ (s : State) (d : Bit) (f : Word), 4 ≤ s.spb →
    (s.samplesSinceEdge + 1) % s.spb = s.spb / 2 →
    s.mstate = (if d then .highPhaseB else .lowPhaseB) →
    f = (s.sreg <<< 1) ||| (if d then 1 else 0) → f.extractLsb' 48 16 = 0xFFFE#16 →
    (s.lastSample = false →
      exec .smp0 s = .next { s with
        samplesSinceEdge := s.samplesSinceEdge + 1, mstate := .lowPhaseA, sreg := 0,
        out := { chip := some false, bit := some d, frame := some (frameEvent f) } }) ∧
    (s.lastSample = true →
      exec .smp1 s = .next { s with
        samplesSinceEdge := s.samplesSinceEdge + 1, mstate := .highPhaseA, sreg := 0,
        out := { chip := some true, bit := some d, frame := some (frameEvent f) } })

/-- R71, R103, R81(a): every byte but 0x00 and 0x01 selects a row of SMPX, and each of the seven rows changes
nothing and asserts nothing (that the byte counts as a step is the spec's D26, log entry 23). -/
def Obligations.InvalidSampleChangesNothing : Prop :=
  ∀ s : State,
    (∀ b : Byte, b ≠ 0x00 → b ≠ 0x01 →
      ∃ i, decode (.smp b) = .ok i ∧ exec i s = .next { s with out := {} }) ∧
    (∀ x, exec (.smpxB7 x) s = .next { s with out := {} }) ∧
    (∀ x, exec (.smpxB6 x) s = .next { s with out := {} }) ∧
    (∀ x, exec (.smpxB5 x) s = .next { s with out := {} }) ∧
    (∀ x, exec (.smpxB4 x) s = .next { s with out := {} }) ∧
    (∀ x, exec (.smpxB3 x) s = .next { s with out := {} }) ∧
    (∀ x, exec (.smpxB2 x) s = .next { s with out := {} }) ∧
    (∀ x, exec (.smpxB1 x) s = .next { s with out := {} })

/-- R105 (derived there): in a run of `L` samples of the level `v` that begins with an edge, or right after
reset, the `n`-th sample emits a chip iff `n >= 2` and `n mod SPB = HALF`, and its value is `v`. -/
def Obligations.ChipPositionsInRun : Prop :=
  ∀ (s : State) (v : Bit) (L : Nat) (rest : List Event),
    4 ≤ s.spb → s.lastSample ≠ v ∨ s.samplesSinceEdge = 0 → s.input = runOf L v ++ rest →
    ∀ n, 1 ≤ n → n ≤ L →
      ((observed L s)[n - 1]?).map Outputs.chip =
        some (if 2 ≤ n ∧ n % s.spb = s.spb / 2 then some v else none)

/-- R105 (derived there), the count: a run of `L` samples emits 0 chips if `L < HALF` and otherwise
`((L - HALF) div SPB) + 1`, all of the run's level. -/
def Obligations.ChipCountOfRun : Prop :=
  ∀ (s : State) (v : Bit) (L : Nat) (rest : List Event),
    4 ≤ s.spb → s.lastSample ≠ v ∨ s.samplesSinceEdge = 0 → s.input = runOf L v ++ rest →
    chipsIn (observed L s) =
      List.replicate (if L < s.spb / 2 then 0 else (L - s.spb / 2) / s.spb + 1) v

/-- R103, R235: a stream with invalid bytes behaves exactly as the stream with them deleted: the same
chips, data bits and frames, and the same four fields after it. -/
def Obligations.InvalidBytesAreInvisible : Prop :=
  ∀ (s : State) (bs vs : List Byte), 4 ≤ s.spb →
    vs = bs.filter (fun b => b == 0x00 || b == 0x01) →
    let run (l : List Byte) : List State := states l.length { s with input := l.map .sample }
    let last (l : List Byte) : State := (run l).getLastD s
    chipsIn ((run bs).map State.out) = chipsIn ((run vs).map State.out) ∧
    bitsIn ((run bs).map State.out) = bitsIn ((run vs).map State.out) ∧
    framesIn ((run bs).map State.out) = framesIn ((run vs).map State.out) ∧
    (last bs).lastSample = (last vs).lastSample ∧
    (last bs).samplesSinceEdge = (last vs).samplesSinceEdge ∧
    (last bs).mstate = (last vs).mstate ∧ (last bs).sreg = (last vs).sreg

/-- R22 (derived there): only the counter's residue modulo `SPB` matters. Two states alike but for a
multiple of `SPB` in the counter step to two such states, with equal outputs. -/
def Obligations.CounterResidueSuffices : Prop :=
  ∀ s t s' : State, SamePhase s t → step s = .next s' →
    ∃ t', step t = .next t' ∧ SamePhase s' t'

/-! ### Stage 2 -/

/-- R120, the document's table: whichever way a chip reached the decoder (recovered from a sample, or handed in
by R82's items), the bit emitted is the one pending before it, whatever the chip, and the next state is
the table's. That every state and chip has its row is EveryAdmittedStepCompletes. -/
def Obligations.ChipRunsTransitionTable : Prop :=
  ∀ (s t : State) (c : Bit), step s = .next t →
    t.out.chip = some c ∨ (∃ rest, s.input = .chip c :: rest) →
    (s.mstate = .lowPhaseA →
      t.out.bit = none ∧ t.mstate = (if c then .highPhaseB else .lowPhaseA)) ∧
    (s.mstate = .lowPhaseB →
      t.out.bit = some false ∧ t.mstate = (if c then .highPhaseA else .lowPhaseA)) ∧
    (s.mstate = .highPhaseA →
      t.out.bit = none ∧ t.mstate = (if c then .highPhaseA else .lowPhaseB)) ∧
    (s.mstate = .highPhaseB →
      t.out.bit = some true ∧ t.mstate = (if c then .highPhaseA else .lowPhaseA))

/-- R121, R126: the two transitions that stay and emit nothing, with their encodings (the codes are the
spec's D10, log entry 20), and their corner case: any number of such chips stays there and emits nothing. -/
def Obligations.SteadyChipsEmitNothing : Prop :=
  decode (.man 0b000#3) = .ok .manLowPhaseA0 ∧ decode (.man 0b101#3) = .ok .manHighPhaseA1 ∧
  (∀ s : State, s.mstate = .lowPhaseA →
    exec .manLowPhaseA0 s = .next { s with mstate := .lowPhaseA, out := {} }) ∧
  (∀ s : State, s.mstate = .highPhaseA →
    exec .manHighPhaseA1 s = .next { s with mstate := .highPhaseA, out := {} }) ∧
  (∀ (s : State) (c : Bit) (n : Nat) (rest : List Event), 4 ≤ s.spb →
    s.mstate = (if c then .highPhaseA else .lowPhaseA) →
    s.input = List.replicate n (.chip c) ++ rest →
    (states n s).length = n ∧ ∀ t ∈ states n s, t.mstate = s.mstate ∧ t.sreg = s.sreg ∧ t.out = {})

/-- R122, R125: the two transitions at the middle of a symbol go to the `_B` state of their chip
and emit nothing, with their encodings (the codes are the spec's D10,
log entry 20). -/
def Obligations.MidSymbolChipsPendBit : Prop :=
  decode (.man 0b001#3) = .ok .manLowPhaseA1 ∧ decode (.man 0b100#3) = .ok .manHighPhaseA0 ∧
  (∀ s : State, s.mstate = .lowPhaseA →
    exec .manLowPhaseA1 s = .next { s with mstate := .highPhaseB, out := {} }) ∧
  (∀ s : State, s.mstate = .highPhaseA →
    exec .manHighPhaseA0 s = .next { s with mstate := .lowPhaseB, out := {} })

/-- R123, R124, R127, R128: the four transitions that emit the pending data bit, with their encodings (the
codes are the spec's D10, log entry 20); what the emitted bit does in the framer is R140's (the direction of the
shift is the spec's D8, log entry 19). -/
def Obligations.EmittingTransitionsReleaseBit : Prop :=
  decode (.man 0b010#3) = .ok .manLowPhaseB0 ∧ decode (.man 0b011#3) = .ok .manLowPhaseB1 ∧
  decode (.man 0b110#3) = .ok .manHighPhaseB0 ∧ decode (.man 0b111#3) = .ok .manHighPhaseB1 ∧
  ∀ (s : State) (d : Bit) (f : Word) (i j : Instr),
    (d = false ∧ s.mstate = .lowPhaseB ∧ i = .manLowPhaseB0 ∧ j = .manLowPhaseB1) ∨
    (d = true ∧ s.mstate = .highPhaseB ∧ i = .manHighPhaseB0 ∧ j = .manHighPhaseB1) →
    f = (s.sreg <<< 1) ||| (if d then 1 else 0) →
    if f.extractLsb' 48 16 = 0xFFFE#16 then
      exec i s = .next { s with
        mstate := .lowPhaseA, sreg := 0, out := { bit := some d, frame := some (frameEvent f) } } ∧
      exec j s = .next { s with
        mstate := .highPhaseA, sreg := 0, out := { bit := some d, frame := some (frameEvent f) } }
    else
      exec i s = .next { s with mstate := .lowPhaseA, sreg := f, out := { bit := some d } } ∧
      exec j s = .next { s with mstate := .highPhaseA, sreg := f, out := { bit := some d } }

/-- A transition row in a decoder state other than its own, and FRAME when the register is not that frame,
select no row (R70, R143): the model refuses them by name (log entry 8). `step` never meets one, as
EveryAdmittedStepCompletes says. -/
def Obligations.UnselectedRowIsRefused : Prop :=
  ∀ s : State,
    (s.mstate ≠ .lowPhaseA → exec .manLowPhaseA0 s = .refused .rowNotSelected ∧
      exec .manLowPhaseA1 s = .refused .rowNotSelected) ∧
    (s.mstate ≠ .lowPhaseB → exec .manLowPhaseB0 s = .refused .rowNotSelected ∧
      exec .manLowPhaseB1 s = .refused .rowNotSelected) ∧
    (s.mstate ≠ .highPhaseA → exec .manHighPhaseA0 s = .refused .rowNotSelected ∧
      exec .manHighPhaseA1 s = .refused .rowNotSelected) ∧
    (s.mstate ≠ .highPhaseB → exec .manHighPhaseB0 s = .refused .rowNotSelected ∧
      exec .manHighPhaseB1 s = .refused .rowNotSelected) ∧
    (∀ sof serial ty crc, s.sreg ≠ 0xFFFE#16 ++ sof ++ serial ++ ty ++ crc →
      exec (.frame sof serial ty crc) s = .refused .rowNotSelected)

/-- R130: nothing but a chip and RESET changes `mstate`. A step that changes it consumed RESET, a chip handed
to the decoder, or a sample of the last level at the sampling instant, which emitted a chip: so an
invalid sample, an edge sample and a same-level sample away from that instant leave it. -/
def Obligations.OnlyChipOrResetMovesDecoder : Prop :=
  ∀ s t : State, step s = .next t → t.mstate ≠ s.mstate →
    (∃ rest, s.input = .reset :: rest) ∨ (∃ c rest, s.input = .chip c :: rest) ∨
    (∃ v rest, s.input = .sample (if v then 0x01 else 0x00) :: rest ∧ s.lastSample = v ∧
      (s.samplesSinceEdge + 1) % s.spb = s.spb / 2 ∧ t.out.chip = some v)

/-- R134 (derived there): two equal chips put the decoder in a state that depends only on their value. -/
def Obligations.EqualChipsFixDecoder : Prop :=
  ∀ (s : State) (c : Bit) (rest : List Event), 4 ≤ s.spb →
    s.input = .chip c :: .chip c :: rest →
    ∃ t u, states 2 s = [t, u] ∧ u.mstate = (if c then .highPhaseA else .lowPhaseA)

/-- R133, R131 (derived there): from the state that makes the decoder phase-locked at the first symbol, the
chips of the symbols of `d :: ds` yield all data bits but the last, and one further chip of either value
yields the last (conflict C8). -/
def Obligations.ManchesterRoundTrip : Prop :=
  ∀ (s : State) (d : Bit) (ds : List Bit) (c : Bit) (rest : List Event), 4 ≤ s.spb →
    s.mstate = (if d then .lowPhaseA else .highPhaseA) →
    s.input = (d :: ds).flatMap symbolChips ++ .chip c :: rest →
    bitsIn (observed (2 * (ds.length + 1)) s) = (d :: ds).dropLast ∧
    bitsIn (observed (2 * (ds.length + 1) + 1) s) = d :: ds

/-- R133 (derived there): half a symbol out of phase, while the data repeats one value, the decoder emits the
complement, one bit a symbol. -/
def Obligations.OutOfPhaseComplements : Prop :=
  ∀ (s : State) (d : Bit) (n : Nat) (rest : List Event), 4 ≤ s.spb →
    s.mstate = (if d then .highPhaseA else .lowPhaseA) →
    s.input = (List.replicate n d).flatMap symbolChips ++ rest →
    bitsIn (observed (2 * n) s) = List.replicate n (!d)

/-- R232 (derived there): a low run of `HALF + SPB` valid samples that begins with an edge leaves the decoder
in LOW_PHASE_A, whatever came before. -/
def Obligations.LowRunLocksDecoder : Prop :=
  ∀ (s : State) (rest : List Event), 4 ≤ s.spb → s.lastSample = true →
    s.input = runOf (s.spb / 2 + s.spb) false ++ rest →
    ((states (s.spb / 2 + s.spb) s).getLastD s).mstate = .lowPhaseA

/-! ### Stage 3 -/

/-- R140 to R144: a data bit is shifted into bit 0 and old bit 63 discarded (the direction is the spec's D8,
log entry 19); if the top 16 bits are then 0xFFFE the value is delivered and the register zeroed. -/
def Obligations.BitShiftsOrDelivers : Prop :=
  ∀ (s : State) (d : Bit) (i : Instr) (f : Word),
    (d = false ∧ i = .bit0) ∨ (d = true ∧ i = .bit1) → f = (s.sreg <<< 1) ||| (if d then 1 else 0) →
    if f.extractLsb' 48 16 = 0xFFFE#16 then
      exec i s = .next { s with sreg := 0, out := { frame := some (frameEvent f) } }
    else exec i s = .next { s with sreg := f, out := {} }

/-- R143, R144: FRAME, with the frame standing in the register, delivers it once and zeroes the register;
every frame value with the sync pattern decodes to its row, field by field (R74). -/
def Obligations.FrameRowDelivers : Prop :=
  ∀ (s : State) (f : Word), f.extractLsb' 48 16 = 0xFFFE#16 → s.sreg = f →
    ∃ i, decode (.frm f) = .ok i ∧
      i = .frame (f.extractLsb' 44 4) (f.extractLsb' 24 20) (f.extractLsb' 16 8) (f.extractLsb' 0 16) ∧
      exec i s = .next { s with sreg := 0, out := { frame := some (frameEvent f) } }

/-- R144: whatever step delivers a frame leaves the register zero, and nothing else is cleared: a data bit
that delivers changes no other field, and a sample's step leaves the decoder and the recoverer as the chip
and the sample left them. Four of its clauses rest on choices, not on R144: the frame's bits 63..48 are 0xFFFE by
the 16-bit compare (the spec's D9, log entry 19), its outputs accompany it in the delivering step (D14, log entry
21), a sample leaves `lastSample` at its own level (D4, log entry 16), and a chip handed to the decoder asserts no
chip strobe (the model's reading, log entry 6). -/
def Obligations.DeliveryClearsOnlyRegister : Prop :=
  ∀ (s t : State) (e : FrameOut), step s = .next t → t.out.frame = some e →
    t.sreg = 0 ∧ e.frame.extractLsb' 48 16 = 0xFFFE#16 ∧ e = frameEvent e.frame ∧
    ((∃ c, t.out.chip = some c ∧ t.lastSample = c ∧ t.samplesSinceEdge = s.samplesSinceEdge + 1 ∧
        t.mstate = (if c then .highPhaseA else .lowPhaseA)) ∨
      (t.out.chip = none ∧ t.lastSample = s.lastSample ∧ t.samplesSinceEdge = s.samplesSinceEdge ∧
        ((∃ c rest, s.input = .chip c :: rest ∧
            t.mstate = (if c then .highPhaseA else .lowPhaseA)) ∨
          t.mstate = s.mstate)))

/-- R145 (derived there): a shift delivers iff bits 62..47 before it are 0xFFFE, whatever the new bit, and the
frame is `{r[62:0], b}`. -/
def Obligations.DeliveryDependsOnOldBits : Prop :=
  ∀ (s t : State) (d : Bit), exec (if d then .bit1 else .bit0) s = .next t →
    (t.out.frame.isSome = true ↔ s.sreg.extractLsb' 47 16 = 0xFFFE#16) ∧
    ∀ e, t.out.frame = some e → e.frame = s.sreg.extractLsb' 0 63 ++ BitVec.ofBool d

/-- R146, R24 (derived there; conflict C3): after `ds` was shifted into a zero register with no delivery, bit
`k` of the register is the `k`-th newest data bit, and 0 where none arrived. -/
def Obligations.RegisterHoldsNewestBits : Prop :=
  ∀ (s : State) (ds : List Bit) (rest : List Event), 4 ≤ s.spb → s.sreg = 0 →
    s.input = ds.map .dbit ++ rest → framesIn (observed ds.length s) = [] →
    ∀ k < 64, ((states ds.length s).getLastD s).sreg.getLsbD k = ds.reverse.getD k false

/-- R147 (derived there): no frame within the first 63 data bits after a clearing or RESET. -/
def Obligations.NoFrameBeforeSixtyFourBits : Prop :=
  ∀ (s : State) (ds : List Bit) (rest : List Event), 4 ≤ s.spb → s.sreg = 0 →
    s.input = ds.map .dbit ++ rest → ds.length < 64 → framesIn (observed ds.length s) = []

/-- R148 (derived there): fifteen or more ones, the zero and the 48 low bits of `f` deliver exactly `f`, at
the last bit, and leave the register zero. -/
def Obligations.PreambleOfAnyLengthDelivers : Prop :=
  ∀ (s : State) (k : Nat) (f : Word) (rest : List Event), 4 ≤ s.spb → s.sreg = 0 → 15 ≤ k →
    f.extractLsb' 48 16 = 0xFFFE#16 →
    s.input = (List.replicate k true ++ false :: bitsFrom 48 f).map .dbit ++ rest →
    framesIn (observed (k + 48) s) = [] ∧
    framesIn (observed (k + 49) s) = [frameEvent f] ∧
    ((states (k + 49) s).getLastD s).sreg = 0

/-! ### Stage 4 -/

/-- R192 (that these outputs accompany the frame is the spec's D14, log entry 21), with R74, R77 and R161: what
is presented with a frame `f`. -/
def Obligations.FrameEventOutputs : Prop :=
  ∀ f : Word,
    (frameEvent f).frame = f ∧ (frameEvent f).sof = f.extractLsb' 44 4 ∧
    (frameEvent f).polyUsed = (if f.extractLsb' 44 4 = 0x8#4 then 0x18005#17 else 0x18050#17) ∧
    (frameEvent f).crcOkAuto =
      divides f (if f.extractLsb' 44 4 = 0x8#4 then 0x18005#17 else 0x18050#17) ∧
    (frameEvent f).crcOk2gig = divides f 0x18050#17 ∧
    (f.extractLsb' 44 4 ≠ 0x8#4 → (frameEvent f).crcOkAuto = (frameEvent f).crcOk2gig)

/-- R162 to R165 (the codes are the spec's D18, log entry 20; that the outputs accompany the frame is its D14, log
entry 21): the brand code, the auto-polynomial, the assumed flag and the AUTO check on a frame event, for all
sixteen values of `sof`. -/
def Obligations.BrandTableOnFrameEvent : Prop :=
  ∀ f : Word,
    (f.extractLsb' 44 4 ∈ [0x2#4, 0x3#4, 0x4#4, 0x7#4, 0x9#4, 0xA#4, 0xB#4, 0xC#4, 0xF#4] →
      (frameEvent f).brand.code = 0b01#2 ∧ (frameEvent f).polyUsed = 0x18050#17 ∧
      (frameEvent f).polyAssumed = false ∧ crcCheck f .auto = divides f 0x18050#17) ∧
    (f.extractLsb' 44 4 = 0x8#4 →
      (frameEvent f).brand.code = 0b10#2 ∧ (frameEvent f).polyUsed = 0x18005#17 ∧
      (frameEvent f).polyAssumed = false ∧ crcCheck f .auto = divides f 0x18005#17) ∧
    (f.extractLsb' 44 4 ∈ [0xD#4, 0xE#4] →
      (frameEvent f).brand.code = 0b11#2 ∧ (frameEvent f).polyUsed = 0x18050#17 ∧
      (frameEvent f).polyAssumed = true ∧ crcCheck f .auto = divides f 0x18050#17) ∧
    (f.extractLsb' 44 4 ∈ [0x0#4, 0x1#4, 0x5#4, 0x6#4] →
      (frameEvent f).brand.code = 0b00#2 ∧ (frameEvent f).polyUsed = 0x18050#17 ∧
      (frameEvent f).polyAssumed = false ∧ crcCheck f .auto = divides f 0x18050#17)

/-- R77, R162 to R165, run alone: each of the sixteen rows writes no field of the block and answers what the
brand table says (that the answer is presented in `out.selection` is the model's, log entry 9). -/
def Obligations.PolyRowsAnswerSelection : Prop :=
  ∀ (s : State) (i : Instr) (x : Selection),
    (i ∈ [.poly2gigSof2, .poly2gigSof3, .poly2gigSof4, .poly2gigSof7, .poly2gigSof9, .poly2gigSofA,
        .poly2gigSofB, .poly2gigSofC, .poly2gigSofF] ∧ x = ⟨.gig2, 0x18050#17, false⟩) ∨
    (i = .polyHoneywellSof8 ∧ x = ⟨.honeywell, 0x18005#17, false⟩) ∨
    (i ∈ [.polyVivintSofD, .polyVivintSofE] ∧ x = ⟨.vivint, 0x18050#17, true⟩) ∨
    (i ∈ [.polyOtherSof0, .polyOtherSof1, .polyOtherSof5, .polyOtherSof6] ∧
      x = ⟨.unknown, 0x18050#17, false⟩) →
    exec i s = .next { s with out := { selection := some x } }

/-- R160, R161, R171: a separate check writes no field of the block and answers the division by the polynomial
its selector gives; under AUTO `force_poly` is ignored (that the answer is presented in `out.crcOk` is the
model's, log entry 10). -/
def Obligations.CrcRowsAnswerDivision : Prop :=
  ∀ (s : State) (f : Word),
    (∀ (x : BitVec 17) (ok : Bit),
      ok = divides f (if f.extractLsb' 44 4 = 0x8#4 then 0x18005#17 else 0x18050#17) →
      exec (.crcAuto x f) s = .next { s with out := { crcOk := some ok } }) ∧
    (∀ p : Poly, p.getLsbD 16 = true →
      exec (.crcForce p f) s = .next { s with out := { crcOk := some (divides f p) } })

/-- R78, R81(d), R174, X2 (the spec's D11 and D12; log entry 14): the reserved selector decodes to its row and
is refused, and so is a forced polynomial without bit 16. -/
def Obligations.ReservedSelectorIsRefused : Prop :=
  ∀ (s : State) (f : Word),
    (∀ w : BitVec 18, w.getLsbD 17 = true → w.getLsbD 16 = false →
      decode (.sel w f) = .ok (.selReserved (w.extractLsb' 0 16) f)) ∧
    (∀ x, exec (.selReserved x f) s = .refused .reservedSelector) ∧
    (∀ p, p.getLsbD 16 = false → exec (.crcForce p f) s = .refused .polynomialNotAdmitted)

/-- R168 (derived there): for an admitted polynomial the loop of R166 makes exactly the 32 passes with the
divisor `p << k`, `k` from 31 down to 0. -/
def Obligations.DivisionMakesThirtyTwoPasses : Prop :=
  ∀ (f : Word) (p : Poly), p.getLsbD 16 = true →
    finalSum f p =
      (List.range 32).foldl
        (fun sum j =>
          if clz64 sum = clz64 (p.setWidth 64 <<< (31 - j)) then sum ^^^ (p.setWidth 64 <<< (31 - j))
          else sum)
        (f &&& 0x0000FFFFFFFFFFFF)

/-- R169, R170 (derived there): the division leaves the 16-bit remainder the shift register of R170 computes. -/
def Obligations.DivisionEqualsShiftRegister : Prop :=
  ∀ (f : Word) (p : Poly), p.getLsbD 16 = true →
    finalSum f p = (remainder16 f p).setWidth 64 ∧ divides f p = (remainder16 f p == 0)

/-- R173: the check depends only on bits 47..0 and the selector, for every 64-bit value. -/
def Obligations.CheckIgnoresSyncBits : Prop :=
  ∀ (f g : Word) (sel : Selector), f.extractLsb' 0 48 = g.extractLsb' 0 48 →
    crcCheck f sel = crcCheck g sel ∧
    ∀ (s : State) (x : BitVec 17) (p : Poly),
      exec (.crcAuto x f) s = exec (.crcAuto x g) s ∧ exec (.crcForce p f) s = exec (.crcForce p g) s

/-- R172 (derived there; conflict C2, the spec's D24 and D13, log entry 22): the all-zero payload passes under
AUTO and under every admitted polynomial. -/
def Obligations.ZeroPayloadPasses : Prop :=
  ∀ (f : Word) (p : Poly), p.getLsbD 16 = true → f.extractLsb' 0 48 = 0 →
    crcCheck f .auto = true ∧ crcCheck f (.force p) = true

/-- R175 (derived there): the exclusive-or of two valid payloads is valid. -/
def Obligations.CheckIsLinear : Prop :=
  ∀ (f g : Word) (p : Poly), p.getLsbD 16 = true → divides f p = true → divides g p = true →
    divides (f ^^^ g) p = true

/-- R175 (derived there): a single-bit error in a valid payload is always found, when the polynomial has a
second term. -/
def Obligations.SingleBitErrorIsFound : Prop :=
  ∀ (f : Word) (p : Poly) (k : Nat), p.getLsbD 16 = true → p ≠ 0x10000#17 → divides f p = true →
    k < 48 → divides (f ^^^ (1 <<< k)) p = false

/-- R175 (derived there), the corollary: under 0x18050 a value whose bits 3..0 are not zero never passes. -/
def Obligations.TwoGigCheckNeedsZeroNibble : Prop :=
  ∀ f : Word, f.extractLsb' 0 4 ≠ 0#4 →
    crcCheck f (.force 0x18050#17) = false ∧ (frameEvent f).crcOk2gig = false

/-- R176 (derived there): for each message and admitted polynomial exactly one value of the check bits is
valid, the remainder of the message times x^16. -/
def Obligations.CheckBitsAreUnique : Prop :=
  ∀ (m : BitVec 32) (p : Poly) (c : BitVec 16), p.getLsbD 16 = true →
    divides (0xFFFE#16 ++ m ++ c) p = (c == checkBits m p)

/-! ### RESET -/

/-- R230, R29, R129: RESET sets the four fields to the values of State.reset and asserts nothing; the decoder's
value is the document's, the three zeros and the operation are the spec's D3 and D19 (log entries 4, 25). -/
def Obligations.ResetRestoresResetValues : Prop :=
  ∀ s : State,
    exec .reset s = .next { s with
      lastSample := false, samplesSinceEdge := 0, mstate := .lowPhaseA, sreg := 0, out := {} } ∧
    exec .reset s = .next { State.reset with spb := s.spb, input := s.input }

/-! ### The whole machine -/

/-- R24, R20 (log entry 4 for the counter's start): the invariant holds after reset. -/
def Obligations.ResetStateMeetsInvariant : Prop :=
  State.reset.Inv

/-- Every step keeps the invariant. That bits 63..48 of the register are not the sync pattern is R24's (derived
there). That the counter is 0 only beside the level 0 survives RESET by the reset values the spec chooses (D3,
log entry 4), and that `SPB` stays admitted is its choice that nothing changes `SPB` (D20, log entry 15). -/
def Obligations.StepKeepsInvariant : Prop :=
  ∀ s t : State, s.Inv → step s = .next t → t.Inv

/-- R27, R51, R57, R59, R238 (the spec's D20, log entry 15): a step changes no configuration and consumes
exactly the next event. -/
def Obligations.StepKeepsSpbAndConsumesOneEvent : Prop :=
  ∀ s t : State, step s = .next t → t.spb = s.spb ∧ t.input = s.input.tail

/-- R8, R196, R210: in an admitted configuration every state and every event but the reserved selector has a next
state: no byte, chip, data bit or frame is refused, and nothing faults. -/
def Obligations.EveryAdmittedStepCompletes : Prop :=
  ∀ s : State, 4 ≤ s.spb →
    (∀ sel f rest, s.input = .crc sel f :: rest → sel.getLsbD 17 = true → sel.getLsbD 16 = true) →
    ∃ t, step s = .next t

/-- R191 (derived there): in a sample's step a frame implies a data bit, a data bit implies a chip, and a chip
implies a valid byte of the chip's level that was not an edge. -/
def Obligations.FrameImpliesBitImpliesChip : Prop :=
  ∀ (s t : State) (b : Byte) (rest : List Event), s.input = .sample b :: rest → step s = .next t →
    (t.out.frame.isSome = true → t.out.bit.isSome = true) ∧
    (t.out.bit.isSome = true → t.out.chip.isSome = true) ∧
    (∀ c, t.out.chip = some c → b = (if c then 0x01 else 0x00) ∧ s.lastSample = c)

/-- R20 to R22: what every step leaves in the recoverer's two fields, by its input. A valid sample leaves its
own level and the counter one more, or 1 at an edge (the write of `lastSample` is the spec's D4, log entry 16);
RESET leaves the reset values (both zeros are its D3, log entry 4); an invalid sample, every other event and no
event leave both fields as they were. -/
def Obligations.OnlySamplesMoveRecoverer : Prop :=
  ∀ s t : State, step s = .next t →
    match s.input with
    | .sample b :: _ =>
      if b = 0x00 then
        t.lastSample = false ∧
          t.samplesSinceEdge = if s.lastSample = false then s.samplesSinceEdge + 1 else 1
      else if b = 0x01 then
        t.lastSample = true ∧
          t.samplesSinceEdge = if s.lastSample = true then s.samplesSinceEdge + 1 else 1
      else t.lastSample = s.lastSample ∧ t.samplesSinceEdge = s.samplesSinceEdge
    | .reset :: _ => t.lastSample = false ∧ t.samplesSinceEdge = 0
    | _ => t.lastSample = s.lastSample ∧ t.samplesSinceEdge = s.samplesSinceEdge

/-- R24, R140, R190: in a state between steps the register changes only where a data bit was emitted or handed in,
or at RESET. -/
def Obligations.OnlyBitsMoveRegister : Prop :=
  ∀ s t : State, s.SyncFree → step s = .next t → t.sreg ≠ s.sreg →
    t.out.bit.isSome = true ∨ (∃ d rest, s.input = .dbit d :: rest) ∨ ∃ rest, s.input = .reset :: rest

/-- R2: a pipeline without feedback: each stage reads its own state and the value handed to it, and nothing
else. Stage 1's fields and chip follow from its own fields (and `SPB`), stage 2's state and bit from its own
state and the chip, stage 3's register and frame from its own register and the data bit, stage 4's answer from
the frame. -/
def Obligations.NoFeedbackBetweenStages : Prop :=
  ∀ s t s' t' : State, s.input = t.input → step s = .next s' → step t = .next t' →
    (AlikeToRecoverer s t → AlikeToRecoverer s' t' ∧ s'.out.chip = t'.out.chip) ∧
    (s.mstate = t.mstate → s'.out.chip = t'.out.chip →
      s'.mstate = t'.mstate ∧ s'.out.bit = t'.out.bit) ∧
    (s.sreg = t.sreg → s'.out.bit = t'.out.bit →
      s'.sreg = t'.sreg ∧ s'.out.frame.map FrameOut.frame = t'.out.frame.map FrameOut.frame) ∧
    (∀ e e', s'.out.frame = some e → t'.out.frame = some e' → e.frame = e'.frame → e = e')

/-- R190, R232, R233 (derived there): the whole block. From the reset values, for every admitted `SPB`, any idle
time, then the symbols of any frame `f` and `HALF` idle samples deliver exactly `f`, at the last of these
samples and not before. -/
def Obligations.TransmissionIsDelivered : Prop :=
  ∀ (s : State) (n : Nat) (f : Word) (rest : List Event), 4 ≤ s.spb →
    s.lastSample = false → s.samplesSinceEdge = 0 → s.mstate = .lowPhaseA → s.sreg = 0 →
    f.extractLsb' 48 16 = 0xFFFE#16 →
    s.input = idleSamples n ++ frameSymbols s.spb f ++ idleSamples (s.spb / 2) ++ rest →
    let last := n + 128 * s.spb + s.spb / 2
    framesIn (observed (last - 1) s) = [] ∧ framesIn (observed last s) = [frameEvent f]

/-! ### Encodings -/

/-- R71, R73, R75, R77, R78: words written out from the spec's tables decode to the rows they stand for (the codes
of R73 and the port of R78 are the spec's D10 and D11). -/
def Obligations.SpecWordsDecode : Prop :=
  decode (.smp 0b00000001#8) = .ok .smp1 ∧
  decode (.smp 0x7F#8) = .ok (.smpxB6 0b111111#6) ∧
  decode (.man 0b110#3) = .ok .manHighPhaseB0 ∧
  decode (.dbit 0b1#1) = .ok .bit1 ∧
  decode (.frm 0xFFFEA12345805E80#64) = .ok (.frame 0xA#4 0x12345#20 0x80#8 0x5E80#16) ∧
  decode (.frm 0xFFFFA12345805E80#64) = .error .noSync ∧
  decode (.sof 0b1000#4) = .ok .polyHoneywellSof8 ∧
  decode (.sel 0b111000000000000101#18 5) = .ok (.crcForce 0x18005#17 5)

/-- R70 to R78: decoding the word of a well-formed instruction gives it back, every operand at every value. -/
def Obligations.DecodeOfEncode : Prop :=
  ∀ i : Instr, i.WellFormed → decode (encode i) = .ok i

/-- R70 to R78, the other direction: a word that decodes is the word of its instruction, which is well formed, and
shows the opcode table's match bits under the row's mask. -/
def Obligations.EncodeOfDecode : Prop :=
  ∀ (w : PortWord) (i : Instr), decode w = .ok i →
    i.WellFormed ∧ encode i = w ∧ formatOf w = (tableRow i).format ∧
    bitsOf w &&& (tableRow i).mask = (tableRow i).matchBits

/-- The opcode table's rows of one format are disjoint (R71, R78, R81; opcode_table.json): no value shows the match
bits of two different rows. -/
def Obligations.TableRowsAreDisjoint : Prop :=
  ∀ (i j : Instr) (w : BitVec 64), (tableRow i).format = (tableRow j).format →
    w &&& (tableRow i).mask = (tableRow i).matchBits →
    w &&& (tableRow j).mask = (tableRow j).matchBits → tableRow i = tableRow j
end

