-- ==== Sys2Proof/Laws/State.lean ====
section
/-!
SUPPORT. One lemma per field per update of State, each true by rfl, so that no later proof unfolds a
record update. A State is equal to another when its seven fields are (State.ext_fields).
-/

namespace Sys2Proof.Machine

@[simp] theorem State.quiet_lastSample (s : State) :
    (s.quiet).lastSample = s.lastSample := rfl
@[simp] theorem State.quiet_samplesSinceEdge (s : State) :
    (s.quiet).samplesSinceEdge = s.samplesSinceEdge := rfl
@[simp] theorem State.quiet_mstate (s : State) :
    (s.quiet).mstate = s.mstate := rfl
@[simp] theorem State.quiet_sreg (s : State) :
    (s.quiet).sreg = s.sreg := rfl
@[simp] theorem State.quiet_spb (s : State) :
    (s.quiet).spb = s.spb := rfl
@[simp] theorem State.quiet_input (s : State) :
    (s.quiet).input = s.input := rfl
@[simp] theorem State.quiet_out (s : State) :
    (s.quiet).out = {} := rfl

@[simp] theorem State.setRecoverer_lastSample (s : State) (v : Bit) (n : Nat) :
    (s.setRecoverer v n).lastSample = v := rfl
@[simp] theorem State.setRecoverer_samplesSinceEdge (s : State) (v : Bit) (n : Nat) :
    (s.setRecoverer v n).samplesSinceEdge = n := rfl
@[simp] theorem State.setRecoverer_mstate (s : State) (v : Bit) (n : Nat) :
    (s.setRecoverer v n).mstate = s.mstate := rfl
@[simp] theorem State.setRecoverer_sreg (s : State) (v : Bit) (n : Nat) :
    (s.setRecoverer v n).sreg = s.sreg := rfl
@[simp] theorem State.setRecoverer_spb (s : State) (v : Bit) (n : Nat) :
    (s.setRecoverer v n).spb = s.spb := rfl
@[simp] theorem State.setRecoverer_input (s : State) (v : Bit) (n : Nat) :
    (s.setRecoverer v n).input = s.input := rfl
@[simp] theorem State.setRecoverer_out (s : State) (v : Bit) (n : Nat) :
    (s.setRecoverer v n).out = s.out := rfl

@[simp] theorem State.setMState_lastSample (s : State) (m : MState) :
    (s.setMState m).lastSample = s.lastSample := rfl
@[simp] theorem State.setMState_samplesSinceEdge (s : State) (m : MState) :
    (s.setMState m).samplesSinceEdge = s.samplesSinceEdge := rfl
@[simp] theorem State.setMState_mstate (s : State) (m : MState) :
    (s.setMState m).mstate = m := rfl
@[simp] theorem State.setMState_sreg (s : State) (m : MState) :
    (s.setMState m).sreg = s.sreg := rfl
@[simp] theorem State.setMState_spb (s : State) (m : MState) :
    (s.setMState m).spb = s.spb := rfl
@[simp] theorem State.setMState_input (s : State) (m : MState) :
    (s.setMState m).input = s.input := rfl
@[simp] theorem State.setMState_out (s : State) (m : MState) :
    (s.setMState m).out = s.out := rfl

@[simp] theorem State.setSreg_lastSample (s : State) (r : Word) :
    (s.setSreg r).lastSample = s.lastSample := rfl
@[simp] theorem State.setSreg_samplesSinceEdge (s : State) (r : Word) :
    (s.setSreg r).samplesSinceEdge = s.samplesSinceEdge := rfl
@[simp] theorem State.setSreg_mstate (s : State) (r : Word) :
    (s.setSreg r).mstate = s.mstate := rfl
@[simp] theorem State.setSreg_sreg (s : State) (r : Word) :
    (s.setSreg r).sreg = r := rfl
@[simp] theorem State.setSreg_spb (s : State) (r : Word) :
    (s.setSreg r).spb = s.spb := rfl
@[simp] theorem State.setSreg_input (s : State) (r : Word) :
    (s.setSreg r).input = s.input := rfl
@[simp] theorem State.setSreg_out (s : State) (r : Word) :
    (s.setSreg r).out = s.out := rfl

@[simp] theorem State.putChip_lastSample (s : State) (c : Bit) :
    (s.putChip c).lastSample = s.lastSample := rfl
@[simp] theorem State.putChip_samplesSinceEdge (s : State) (c : Bit) :
    (s.putChip c).samplesSinceEdge = s.samplesSinceEdge := rfl
@[simp] theorem State.putChip_mstate (s : State) (c : Bit) :
    (s.putChip c).mstate = s.mstate := rfl
@[simp] theorem State.putChip_sreg (s : State) (c : Bit) :
    (s.putChip c).sreg = s.sreg := rfl
@[simp] theorem State.putChip_spb (s : State) (c : Bit) :
    (s.putChip c).spb = s.spb := rfl
@[simp] theorem State.putChip_input (s : State) (c : Bit) :
    (s.putChip c).input = s.input := rfl
@[simp] theorem State.putChip_out (s : State) (c : Bit) :
    (s.putChip c).out = { s.out with chip := some c } := rfl

@[simp] theorem State.putBit_lastSample (s : State) (d : Bit) :
    (s.putBit d).lastSample = s.lastSample := rfl
@[simp] theorem State.putBit_samplesSinceEdge (s : State) (d : Bit) :
    (s.putBit d).samplesSinceEdge = s.samplesSinceEdge := rfl
@[simp] theorem State.putBit_mstate (s : State) (d : Bit) :
    (s.putBit d).mstate = s.mstate := rfl
@[simp] theorem State.putBit_sreg (s : State) (d : Bit) :
    (s.putBit d).sreg = s.sreg := rfl
@[simp] theorem State.putBit_spb (s : State) (d : Bit) :
    (s.putBit d).spb = s.spb := rfl
@[simp] theorem State.putBit_input (s : State) (d : Bit) :
    (s.putBit d).input = s.input := rfl
@[simp] theorem State.putBit_out (s : State) (d : Bit) :
    (s.putBit d).out = { s.out with bit := some d } := rfl

@[simp] theorem State.putFrame_lastSample (s : State) (f : FrameOut) :
    (s.putFrame f).lastSample = s.lastSample := rfl
@[simp] theorem State.putFrame_samplesSinceEdge (s : State) (f : FrameOut) :
    (s.putFrame f).samplesSinceEdge = s.samplesSinceEdge := rfl
@[simp] theorem State.putFrame_mstate (s : State) (f : FrameOut) :
    (s.putFrame f).mstate = s.mstate := rfl
@[simp] theorem State.putFrame_sreg (s : State) (f : FrameOut) :
    (s.putFrame f).sreg = s.sreg := rfl
@[simp] theorem State.putFrame_spb (s : State) (f : FrameOut) :
    (s.putFrame f).spb = s.spb := rfl
@[simp] theorem State.putFrame_input (s : State) (f : FrameOut) :
    (s.putFrame f).input = s.input := rfl
@[simp] theorem State.putFrame_out (s : State) (f : FrameOut) :
    (s.putFrame f).out = { s.out with frame := some f } := rfl

@[simp] theorem State.putSelection_lastSample (s : State) (x : Selection) :
    (s.putSelection x).lastSample = s.lastSample := rfl
@[simp] theorem State.putSelection_samplesSinceEdge (s : State) (x : Selection) :
    (s.putSelection x).samplesSinceEdge = s.samplesSinceEdge := rfl
@[simp] theorem State.putSelection_mstate (s : State) (x : Selection) :
    (s.putSelection x).mstate = s.mstate := rfl
@[simp] theorem State.putSelection_sreg (s : State) (x : Selection) :
    (s.putSelection x).sreg = s.sreg := rfl
@[simp] theorem State.putSelection_spb (s : State) (x : Selection) :
    (s.putSelection x).spb = s.spb := rfl
@[simp] theorem State.putSelection_input (s : State) (x : Selection) :
    (s.putSelection x).input = s.input := rfl
@[simp] theorem State.putSelection_out (s : State) (x : Selection) :
    (s.putSelection x).out = { s.out with selection := some x } := rfl

@[simp] theorem State.putCrc_lastSample (s : State) (ok : Bit) :
    (s.putCrc ok).lastSample = s.lastSample := rfl
@[simp] theorem State.putCrc_samplesSinceEdge (s : State) (ok : Bit) :
    (s.putCrc ok).samplesSinceEdge = s.samplesSinceEdge := rfl
@[simp] theorem State.putCrc_mstate (s : State) (ok : Bit) :
    (s.putCrc ok).mstate = s.mstate := rfl
@[simp] theorem State.putCrc_sreg (s : State) (ok : Bit) :
    (s.putCrc ok).sreg = s.sreg := rfl
@[simp] theorem State.putCrc_spb (s : State) (ok : Bit) :
    (s.putCrc ok).spb = s.spb := rfl
@[simp] theorem State.putCrc_input (s : State) (ok : Bit) :
    (s.putCrc ok).input = s.input := rfl
@[simp] theorem State.putCrc_out (s : State) (ok : Bit) :
    (s.putCrc ok).out = { s.out with crcOk := some ok } := rfl

@[simp] theorem State.setInput_lastSample (s : State) (es : List Event) :
    (s.setInput es).lastSample = s.lastSample := rfl
@[simp] theorem State.setInput_samplesSinceEdge (s : State) (es : List Event) :
    (s.setInput es).samplesSinceEdge = s.samplesSinceEdge := rfl
@[simp] theorem State.setInput_mstate (s : State) (es : List Event) :
    (s.setInput es).mstate = s.mstate := rfl
@[simp] theorem State.setInput_sreg (s : State) (es : List Event) :
    (s.setInput es).sreg = s.sreg := rfl
@[simp] theorem State.setInput_spb (s : State) (es : List Event) :
    (s.setInput es).spb = s.spb := rfl
@[simp] theorem State.setInput_input (s : State) (es : List Event) :
    (s.setInput es).input = es := rfl
@[simp] theorem State.setInput_out (s : State) (es : List Event) :
    (s.setInput es).out = s.out := rfl

@[simp] theorem State.setSpb_lastSample (s : State) (k : Nat) :
    (s.setSpb k).lastSample = s.lastSample := rfl
@[simp] theorem State.setSpb_samplesSinceEdge (s : State) (k : Nat) :
    (s.setSpb k).samplesSinceEdge = s.samplesSinceEdge := rfl
@[simp] theorem State.setSpb_mstate (s : State) (k : Nat) :
    (s.setSpb k).mstate = s.mstate := rfl
@[simp] theorem State.setSpb_sreg (s : State) (k : Nat) :
    (s.setSpb k).sreg = s.sreg := rfl
@[simp] theorem State.setSpb_spb (s : State) (k : Nat) :
    (s.setSpb k).spb = k := rfl
@[simp] theorem State.setSpb_input (s : State) (k : Nat) :
    (s.setSpb k).input = s.input := rfl
@[simp] theorem State.setSpb_out (s : State) (k : Nat) :
    (s.setSpb k).out = s.out := rfl

/-- Two states with equal fields are equal. -/
theorem State.ext_fields {s t : State} (h1 : s.lastSample = t.lastSample)
    (h2 : s.samplesSinceEdge = t.samplesSinceEdge) (h3 : s.mstate = t.mstate) (h4 : s.sreg = t.sreg)
    (h5 : s.spb = t.spb) (h6 : s.input = t.input) (h7 : s.out = t.out) : s = t := by
  cases s; cases t; simp_all

end Sys2Proof.Machine
end

