-- ==== Sys2Proof/Laws/Ops.lean ====
section
/-!
SUPPORT. What each shared operation can do, said once: the cases of SHIFT_IN, DECODE_CHIP and RECOVER,
and what each leaves unchanged. The provers cite these instead of unfolding the operations.
-/

namespace Sys2Proof.Machine

/-- The framer's masked comparison is a comparison of bits 63..48 (R75). -/
theorem syncMatch_iff (r : Word) : syncMatch r = true ↔ syncOf r = 0xFFFE#16 := by
  simp only [syncMatch, syncOf, Config.syncMask, Config.syncPattern, beq_iff_eq]
  constructor
  · intro h
    have := congrArg (fun w : Word => w.extractLsb' 48 16) h
    simp only [BitVec.extractLsb'_and] at this
    have ones : (0xFFFF000000000000#64).extractLsb' 48 16 = BitVec.allOnes 16 := by decide
    rw [show (0xFFFF000000000000 : Word) = 0xFFFF000000000000#64 from rfl, ones,
      BitVec.and_allOnes] at this
    exact this
  · intro h
    apply BitVec.eq_of_getLsbD_eq
    intro j hj
    have mask : (0xFFFF000000000000#64).getLsbD j = decide (48 ≤ j) := by
      revert j; decide
    rw [BitVec.getLsbD_and]
    show (r.getLsbD j && (0xFFFF000000000000#64).getLsbD j) = (0xFFFE000000000000#64).getLsbD j
    rw [mask]
    by_cases h48 : 48 ≤ j
    · have bit := congrArg (fun w : BitVec 16 => w.getLsbD (j - 48)) h
      simp only [BitVec.getLsbD_extractLsb', show j - 48 < 16 by omega, show 48 + (j - 48) = j by omega,
        decide_true, Bool.true_and] at bit
      rw [bit]
      obtain ⟨k, rfl⟩ := Nat.exists_eq_add_of_le h48
      have hk : k < 16 := by omega
      clear mask bit h48 hj
      revert k; decide
    · have : j < 48 := by omega
      simp only [h48, decide_false, Bool.and_false]
      revert j; decide

section deliver
variable (s : State) (f : Word)

@[simp] theorem State.deliver_lastSample : (s.deliver f).lastSample = s.lastSample := rfl
@[simp] theorem State.deliver_samplesSinceEdge :
    (s.deliver f).samplesSinceEdge = s.samplesSinceEdge := rfl
@[simp] theorem State.deliver_mstate : (s.deliver f).mstate = s.mstate := rfl
@[simp] theorem State.deliver_sreg : (s.deliver f).sreg = 0 := rfl
@[simp] theorem State.deliver_spb : (s.deliver f).spb = s.spb := rfl
@[simp] theorem State.deliver_input : (s.deliver f).input = s.input := rfl
@[simp] theorem State.deliver_out :
    (s.deliver f).out = { s.out with frame := some (frameEvent f) } := rfl

end deliver

section shiftIn
variable (s : State) (d : Bit)

/-- A shift that completes the sync pattern delivers (R143). -/
theorem State.shiftIn_of_sync (h : syncMatch (shifted s.sreg d) = true) :
    s.shiftIn d = s.deliver (shifted s.sreg d) := by simp [State.shiftIn, h]

/-- Any other shift writes the register only (R140). -/
theorem State.shiftIn_of_noSync (h : syncMatch (shifted s.sreg d) = false) :
    s.shiftIn d = s.setSreg (shifted s.sreg d) := by simp [State.shiftIn, h]

/-- The two things SHIFT_IN can do. -/
theorem State.shiftIn_cases :
    (syncMatch (shifted s.sreg d) = true ∧ s.shiftIn d = s.deliver (shifted s.sreg d)) ∨
    (syncMatch (shifted s.sreg d) = false ∧ s.shiftIn d = s.setSreg (shifted s.sreg d)) := by
  cases h : syncMatch (shifted s.sreg d)
  · exact .inr ⟨rfl, s.shiftIn_of_noSync d h⟩
  · exact .inl ⟨rfl, s.shiftIn_of_sync d h⟩

@[simp] theorem State.shiftIn_lastSample : (s.shiftIn d).lastSample = s.lastSample := by
  rcases s.shiftIn_cases d with ⟨_, h⟩ | ⟨_, h⟩ <;> simp [h]
@[simp] theorem State.shiftIn_samplesSinceEdge :
    (s.shiftIn d).samplesSinceEdge = s.samplesSinceEdge := by
  rcases s.shiftIn_cases d with ⟨_, h⟩ | ⟨_, h⟩ <;> simp [h]
@[simp] theorem State.shiftIn_mstate : (s.shiftIn d).mstate = s.mstate := by
  rcases s.shiftIn_cases d with ⟨_, h⟩ | ⟨_, h⟩ <;> simp [h]
@[simp] theorem State.shiftIn_spb : (s.shiftIn d).spb = s.spb := by
  rcases s.shiftIn_cases d with ⟨_, h⟩ | ⟨_, h⟩ <;> simp [h]
@[simp] theorem State.shiftIn_input : (s.shiftIn d).input = s.input := by
  rcases s.shiftIn_cases d with ⟨_, h⟩ | ⟨_, h⟩ <;> simp [h]
@[simp] theorem State.shiftIn_chip : (s.shiftIn d).out.chip = s.out.chip := by
  rcases s.shiftIn_cases d with ⟨_, h⟩ | ⟨_, h⟩ <;> simp [h]
@[simp] theorem State.shiftIn_bit : (s.shiftIn d).out.bit = s.out.bit := by
  rcases s.shiftIn_cases d with ⟨_, h⟩ | ⟨_, h⟩ <;> simp [h]

end shiftIn

section decodeChip
variable (s : State) (c : Bit)

/-- From a state with nothing pending a chip moves the decoder and emits nothing (R120). -/
theorem State.decodeChip_silent (h : pendingBit s.mstate = none) :
    s.decodeChip c = s.setMState (nextMState s.mstate c) := by
  simp [State.decodeChip, h, State.goSilent]

/-- From a state with a bit pending a chip moves the decoder and emits that bit (R120, R131). -/
theorem State.decodeChip_emitting {d : Bit} (h : pendingBit s.mstate = some d) :
    s.decodeChip c = ((s.setMState (nextMState s.mstate c)).putBit d).shiftIn d := by
  simp [State.decodeChip, h, State.goEmitting, State.emitBit]

/-- The two things DECODE_CHIP can do. -/
theorem State.decodeChip_cases :
    (pendingBit s.mstate = none ∧ s.decodeChip c = s.setMState (nextMState s.mstate c)) ∨
    ∃ d, pendingBit s.mstate = some d ∧
      s.decodeChip c = ((s.setMState (nextMState s.mstate c)).putBit d).shiftIn d := by
  cases h : pendingBit s.mstate with
  | none => exact .inl ⟨rfl, s.decodeChip_silent c h⟩
  | some d => exact .inr ⟨d, rfl, s.decodeChip_emitting c h⟩

@[simp] theorem State.decodeChip_lastSample : (s.decodeChip c).lastSample = s.lastSample := by
  rcases s.decodeChip_cases c with ⟨_, h⟩ | ⟨_, _, h⟩ <;> simp [h]
@[simp] theorem State.decodeChip_samplesSinceEdge :
    (s.decodeChip c).samplesSinceEdge = s.samplesSinceEdge := by
  rcases s.decodeChip_cases c with ⟨_, h⟩ | ⟨_, _, h⟩ <;> simp [h]
@[simp] theorem State.decodeChip_mstate : (s.decodeChip c).mstate = nextMState s.mstate c := by
  rcases s.decodeChip_cases c with ⟨_, h⟩ | ⟨_, _, h⟩ <;> simp [h]
@[simp] theorem State.decodeChip_spb : (s.decodeChip c).spb = s.spb := by
  rcases s.decodeChip_cases c with ⟨_, h⟩ | ⟨_, _, h⟩ <;> simp [h]
@[simp] theorem State.decodeChip_input : (s.decodeChip c).input = s.input := by
  rcases s.decodeChip_cases c with ⟨_, h⟩ | ⟨_, _, h⟩ <;> simp [h]
@[simp] theorem State.decodeChip_chip : (s.decodeChip c).out.chip = s.out.chip := by
  rcases s.decodeChip_cases c with ⟨_, h⟩ | ⟨_, _, h⟩ <;> simp [h]

end decodeChip

section recover
variable (s : State) (v : Bit)

/-- An edge: the counter becomes 1 and no chip is emitted (R100). -/
theorem State.recover_edge (h : s.lastSample ≠ v) : s.recover v = s.setRecoverer v 1 := by
  have : (v == s.lastSample) = false := by simpa using fun e => h e.symm
  simp [State.recover, this]

/-- A same-level sample away from the sampling instant (R100). -/
theorem State.recover_silent (h : s.lastSample = v)
    (hd : chipDue s.spb (s.samplesSinceEdge + 1) = false) :
    s.recover v = s.setRecoverer v (s.samplesSinceEdge + 1) := by
  simp [State.recover, h, hd]

/-- A same-level sample at the sampling instant (R100). -/
theorem State.recover_chip (h : s.lastSample = v)
    (hd : chipDue s.spb (s.samplesSinceEdge + 1) = true) :
    s.recover v = ((s.setRecoverer v (s.samplesSinceEdge + 1)).putChip v).decodeChip v := by
  simp [State.recover, h, hd, State.emitChip]

/-- The three things RECOVER can do. -/
theorem State.recover_cases :
    (s.lastSample ≠ v ∧ s.recover v = s.setRecoverer v 1) ∨
    (s.lastSample = v ∧ chipDue s.spb (s.samplesSinceEdge + 1) = false ∧
      s.recover v = s.setRecoverer v (s.samplesSinceEdge + 1)) ∨
    (s.lastSample = v ∧ chipDue s.spb (s.samplesSinceEdge + 1) = true ∧
      s.recover v = ((s.setRecoverer v (s.samplesSinceEdge + 1)).putChip v).decodeChip v) := by
  by_cases h : s.lastSample = v
  · cases hd : chipDue s.spb (s.samplesSinceEdge + 1)
    · exact .inr (.inl ⟨h, rfl, s.recover_silent v h hd⟩)
    · exact .inr (.inr ⟨h, rfl, s.recover_chip v h hd⟩)
  · exact .inl ⟨h, s.recover_edge v h⟩

@[simp] theorem State.recover_lastSample : (s.recover v).lastSample = v := by
  rcases s.recover_cases v with ⟨_, h⟩ | ⟨_, _, h⟩ | ⟨_, _, h⟩ <;> simp [h]
@[simp] theorem State.recover_spb : (s.recover v).spb = s.spb := by
  rcases s.recover_cases v with ⟨_, h⟩ | ⟨_, _, h⟩ | ⟨_, _, h⟩ <;> simp [h]
@[simp] theorem State.recover_input : (s.recover v).input = s.input := by
  rcases s.recover_cases v with ⟨_, h⟩ | ⟨_, _, h⟩ | ⟨_, _, h⟩ <;> simp [h]

/-- The counter after a valid sample (R22, R100). -/
theorem State.recover_samplesSinceEdge :
    (s.recover v).samplesSinceEdge = if s.lastSample = v then s.samplesSinceEdge + 1 else 1 := by
  rcases s.recover_cases v with ⟨hv, h⟩ | ⟨hv, _, h⟩ | ⟨hv, _, h⟩ <;> simp [h, hv]

end recover

section resetBlock
variable (s : State)

@[simp] theorem State.resetBlock_lastSample : s.resetBlock.lastSample = false := rfl
@[simp] theorem State.resetBlock_samplesSinceEdge : s.resetBlock.samplesSinceEdge = 0 := rfl
@[simp] theorem State.resetBlock_mstate : s.resetBlock.mstate = .lowPhaseA := rfl
@[simp] theorem State.resetBlock_sreg : s.resetBlock.sreg = 0 := rfl
@[simp] theorem State.resetBlock_spb : s.resetBlock.spb = s.spb := rfl
@[simp] theorem State.resetBlock_input : s.resetBlock.input = s.input := rfl
@[simp] theorem State.resetBlock_out : s.resetBlock.out = {} := rfl

end resetBlock

/-- The admitted configurations (R108). -/
theorem State.admitted_iff (s : State) : s.admitted = true ↔ 4 ≤ s.spb :=
  decide_eq_true_iff

end Sys2Proof.Machine
end

