-- ==== Sys2Proof/Laws/PerInstr.lean ====
section
/-!
SUPPORT. The family MeetsTable: the word of a well-formed instruction is in the format of its row of the
opcode table and shows the row's match bits under the row's mask. It ties the encoder to the table's
columns mask and match, which the decoder does not use.
-/

namespace Sys2Proof

/-- The word of `i` meets the opcode table's row of `i`. -/
def Laws.MeetsTable.Statement (i : Instr) : Prop :=
  i.WellFormed →
    formatOf (encode i) = (tableRow i).format ∧
    bitsOf (encode i) &&& (tableRow i).mask = (tableRow i).matchBits

/-- A word's ignored low bits do not show under a mask of its fixed bits. -/
theorem Laws.masked_append {k n : Nat} (h : BitVec k) (x : BitVec n) (m v : BitVec 64)
    (hm : ∀ j < n, m.getLsbD j = false) (hv : (h ++ 0#n).setWidth 64 &&& m = v) :
    (h ++ x).setWidth 64 &&& m = v := by
  rw [← hv]
  ext j hj
  by_cases hn : j < n
  · have : m[j] = false := (BitVec.getLsbD_eq_getElem hj).symm.trans (hm j hn)
    simp [this]
  · simp [BitVec.getLsbD_append, hn]

theorem Laws.MeetsTable.smp0 :
    Laws.MeetsTable.Statement .smp0 :=
  fun _ => ⟨rfl, by decide⟩

theorem Laws.MeetsTable.smp1 :
    Laws.MeetsTable.Statement .smp1 :=
  fun _ => ⟨rfl, by decide⟩

theorem Laws.MeetsTable.smpxB7 (x : BitVec 7) :
    Laws.MeetsTable.Statement (.smpxB7 x) :=
  fun _ => ⟨rfl, Laws.masked_append 0b1#1 x 0x80 0x80 (by decide) (by decide)⟩

theorem Laws.MeetsTable.smpxB6 (x : BitVec 6) :
    Laws.MeetsTable.Statement (.smpxB6 x) :=
  fun _ => ⟨rfl, Laws.masked_append 0b01#2 x 0xC0 0x40 (by decide) (by decide)⟩

theorem Laws.MeetsTable.smpxB5 (x : BitVec 5) :
    Laws.MeetsTable.Statement (.smpxB5 x) :=
  fun _ => ⟨rfl, Laws.masked_append 0b001#3 x 0xE0 0x20 (by decide) (by decide)⟩

theorem Laws.MeetsTable.smpxB4 (x : BitVec 4) :
    Laws.MeetsTable.Statement (.smpxB4 x) :=
  fun _ => ⟨rfl, Laws.masked_append 0b0001#4 x 0xF0 0x10 (by decide) (by decide)⟩

theorem Laws.MeetsTable.smpxB3 (x : BitVec 3) :
    Laws.MeetsTable.Statement (.smpxB3 x) :=
  fun _ => ⟨rfl, Laws.masked_append 0b00001#5 x 0xF8 0x08 (by decide) (by decide)⟩

theorem Laws.MeetsTable.smpxB2 (x : BitVec 2) :
    Laws.MeetsTable.Statement (.smpxB2 x) :=
  fun _ => ⟨rfl, Laws.masked_append 0b000001#6 x 0xFC 0x04 (by decide) (by decide)⟩

theorem Laws.MeetsTable.smpxB1 (x : BitVec 1) :
    Laws.MeetsTable.Statement (.smpxB1 x) :=
  fun _ => ⟨rfl, Laws.masked_append 0b0000001#7 x 0xFE 0x02 (by decide) (by decide)⟩

theorem Laws.MeetsTable.manLowPhaseA0 :
    Laws.MeetsTable.Statement .manLowPhaseA0 :=
  fun _ => ⟨rfl, by decide⟩

theorem Laws.MeetsTable.manLowPhaseA1 :
    Laws.MeetsTable.Statement .manLowPhaseA1 :=
  fun _ => ⟨rfl, by decide⟩

theorem Laws.MeetsTable.manLowPhaseB0 :
    Laws.MeetsTable.Statement .manLowPhaseB0 :=
  fun _ => ⟨rfl, by decide⟩

theorem Laws.MeetsTable.manLowPhaseB1 :
    Laws.MeetsTable.Statement .manLowPhaseB1 :=
  fun _ => ⟨rfl, by decide⟩

theorem Laws.MeetsTable.manHighPhaseA0 :
    Laws.MeetsTable.Statement .manHighPhaseA0 :=
  fun _ => ⟨rfl, by decide⟩

theorem Laws.MeetsTable.manHighPhaseA1 :
    Laws.MeetsTable.Statement .manHighPhaseA1 :=
  fun _ => ⟨rfl, by decide⟩

theorem Laws.MeetsTable.manHighPhaseB0 :
    Laws.MeetsTable.Statement .manHighPhaseB0 :=
  fun _ => ⟨rfl, by decide⟩

theorem Laws.MeetsTable.manHighPhaseB1 :
    Laws.MeetsTable.Statement .manHighPhaseB1 :=
  fun _ => ⟨rfl, by decide⟩

theorem Laws.MeetsTable.bit0 :
    Laws.MeetsTable.Statement .bit0 :=
  fun _ => ⟨rfl, by decide⟩

theorem Laws.MeetsTable.bit1 :
    Laws.MeetsTable.Statement .bit1 :=
  fun _ => ⟨rfl, by decide⟩

theorem Laws.MeetsTable.frame (sof : BitVec 4) (serial : BitVec 20) (ty : BitVec 8) (crc : BitVec 16) :
    Laws.MeetsTable.Statement (.frame sof serial ty crc) := by
  intro _
  refine ⟨rfl, ?_⟩
  have join : 0xFFFE#16 ++ sof ++ serial ++ ty ++ crc = 0xFFFE#16 ++ (sof ++ serial ++ ty ++ crc) := by
    apply BitVec.eq_of_getLsbD_eq
    intro j _
    simp only [BitVec.getLsbD_append]
    grind
  have := Laws.masked_append 0xFFFE#16 (sof ++ serial ++ ty ++ crc) 0xFFFF000000000000
    0xFFFE000000000000 (by decide) (by decide)
  simpa [encode, bitsOf, tableRow, join] using this

theorem Laws.MeetsTable.polyOtherSof0 :
    Laws.MeetsTable.Statement .polyOtherSof0 :=
  fun _ => ⟨rfl, by decide⟩

theorem Laws.MeetsTable.polyOtherSof1 :
    Laws.MeetsTable.Statement .polyOtherSof1 :=
  fun _ => ⟨rfl, by decide⟩

theorem Laws.MeetsTable.poly2gigSof2 :
    Laws.MeetsTable.Statement .poly2gigSof2 :=
  fun _ => ⟨rfl, by decide⟩

theorem Laws.MeetsTable.poly2gigSof3 :
    Laws.MeetsTable.Statement .poly2gigSof3 :=
  fun _ => ⟨rfl, by decide⟩

theorem Laws.MeetsTable.poly2gigSof4 :
    Laws.MeetsTable.Statement .poly2gigSof4 :=
  fun _ => ⟨rfl, by decide⟩

theorem Laws.MeetsTable.polyOtherSof5 :
    Laws.MeetsTable.Statement .polyOtherSof5 :=
  fun _ => ⟨rfl, by decide⟩

theorem Laws.MeetsTable.polyOtherSof6 :
    Laws.MeetsTable.Statement .polyOtherSof6 :=
  fun _ => ⟨rfl, by decide⟩

theorem Laws.MeetsTable.poly2gigSof7 :
    Laws.MeetsTable.Statement .poly2gigSof7 :=
  fun _ => ⟨rfl, by decide⟩

theorem Laws.MeetsTable.polyHoneywellSof8 :
    Laws.MeetsTable.Statement .polyHoneywellSof8 :=
  fun _ => ⟨rfl, by decide⟩

theorem Laws.MeetsTable.poly2gigSof9 :
    Laws.MeetsTable.Statement .poly2gigSof9 :=
  fun _ => ⟨rfl, by decide⟩

theorem Laws.MeetsTable.poly2gigSofA :
    Laws.MeetsTable.Statement .poly2gigSofA :=
  fun _ => ⟨rfl, by decide⟩

theorem Laws.MeetsTable.poly2gigSofB :
    Laws.MeetsTable.Statement .poly2gigSofB :=
  fun _ => ⟨rfl, by decide⟩

theorem Laws.MeetsTable.poly2gigSofC :
    Laws.MeetsTable.Statement .poly2gigSofC :=
  fun _ => ⟨rfl, by decide⟩

theorem Laws.MeetsTable.polyVivintSofD :
    Laws.MeetsTable.Statement .polyVivintSofD :=
  fun _ => ⟨rfl, by decide⟩

theorem Laws.MeetsTable.polyVivintSofE :
    Laws.MeetsTable.Statement .polyVivintSofE :=
  fun _ => ⟨rfl, by decide⟩

theorem Laws.MeetsTable.poly2gigSofF :
    Laws.MeetsTable.Statement .poly2gigSofF :=
  fun _ => ⟨rfl, by decide⟩

theorem Laws.MeetsTable.crcAuto (x : BitVec 17) (f : Word) :
    Laws.MeetsTable.Statement (.crcAuto x f) :=
  fun _ => ⟨rfl, Laws.masked_append 0b0#1 x 0x20000 0 (by decide) (by decide)⟩

theorem Laws.MeetsTable.crcForce (p : Poly) (f : Word) :
    Laws.MeetsTable.Statement (.crcForce p f) := by
  intro h
  refine ⟨rfl, ?_⟩
  have h16 : p.getLsbD 16 = true := h
  have split : 0b1#1 ++ p = 0b11#2 ++ p.extractLsb' 0 16 := by
    apply BitVec.eq_of_getLsbD_eq
    intro j hj
    rw [BitVec.getLsbD_append, BitVec.getLsbD_append, BitVec.getLsbD_extractLsb']
    rcases Nat.lt_trichotomy j 16 with hlt | rfl | hgt
    · simp [hlt, show j < 17 by omega]
    · simpa using h16
    · obtain rfl : j = 17 := by omega
      rfl
  show (0b1#1 ++ p).setWidth 64 &&& 0x30000 = 0x30000#64
  rw [split]
  exact Laws.masked_append 0b11#2 (p.extractLsb' 0 16) 0x30000 0x30000 (by decide) (by decide)

theorem Laws.MeetsTable.selReserved (x : BitVec 16) (f : Word) :
    Laws.MeetsTable.Statement (.selReserved x f) :=
  fun _ => ⟨rfl, Laws.masked_append 0b10#2 x 0x30000 0x20000 (by decide) (by decide)⟩

theorem Laws.MeetsTable.reset :
    Laws.MeetsTable.Statement .reset :=
  fun _ => ⟨rfl, by decide⟩

end Sys2Proof
end

