-- ==== Sys2Proof/Laws/Step.lean ====
section
/-!
SUPPORT. What a step does on each kind of event, said once (`StepCase`, the inversion of `step`), how the
observation unrolls one step, and that no operation looks at the events still to come.
-/

namespace Sys2Proof.Machine

/-- A sample byte of level `v` decodes to that level's row (R71). -/
theorem decodeSmp_levelByte (v : Bit) : decodeSmp (levelByte v) = if v then .smp1 else .smp0 := by
  cases v <;> rfl

/-- Every other byte runs a row of SMPX, which changes nothing (R71, R103). -/
theorem exec_decodeSmp_invalid (s : State) {b : Byte} (h0 : b ≠ 0#8) (h1 : b ≠ 1#8) :
    exec (decodeSmp b) s = .next s.quiet := by
  unfold decodeSmp
  rw [if_neg h0, if_neg h1]
  repeat (split; · rfl)
  rfl

/-- A `SOF` word runs a row that answers what the brand table says (R77, R161). -/
theorem exec_decodeSof (s : State) (w : BitVec 4) :
    exec (decodeSof w) s = .next (s.quiet.putSelection (brandTable w)) := by
  have listed : w ∈ (List.range 16).map (BitVec.ofNat 4) := by revert w; decide
  fin_cases listed <;> rfl

/-- A `SEL` word runs the check its bits select, or is refused (R78). -/
theorem exec_decodeSel (s : State) (w : BitVec 18) (f : Word) :
    exec (decodeSel w f) s =
      if w.getLsbD 17 then
        if w.getLsbD 16 then .next (s.quiet.putCrc (crcCheck f (.force (w.extractLsb' 0 17))))
        else .refused .reservedSelector
      else .next (s.quiet.putCrc (crcCheck f .auto)) := by
  unfold decodeSel
  cases h17 : w.getLsbD 17 <;> simp only [Bool.false_eq_true, if_false, if_true]
  · rfl
  · cases h16 : w.getLsbD 16 <;> simp only [Bool.false_eq_true, if_false, if_true]
    · rfl
    · have hp : polyAdmitted (w.extractLsb' 0 17) = true := by simp [polyAdmitted, ← h16]
      simp only [exec, execCrcForce, hp, if_true]

/-- The fields of a frame put together again give the frame (R74). -/
theorem frameWord_fields {f : Word} (h : syncOf f = 0xFFFE#16) :
    frameWord (f.extractLsb' 44 4) (f.extractLsb' 24 20) (f.extractLsb' 16 8) (f.extractLsb' 0 16) =
      f := by
  unfold frameWord
  rw [← h]
  apply BitVec.eq_of_getLsbD_eq
  intro j _
  simp only [syncOf, BitVec.getLsbD_append, BitVec.getLsbD_extractLsb']
  grind

section step
variable {s t : State} {es : List Event}

/-- Only an admitted configuration steps. -/
theorem spb_of_step (h : step s = .next t) : 4 ≤ s.spb := by
  rw [← State.admitted_iff]
  cases e : s.admitted
  · simp [step, e] at h
  · rfl

/-- With nothing presented the block holds its state. -/
theorem step_idle (h : 4 ≤ s.spb) (hi : s.input = []) : step s = .next s.quiet := by
  simp [step, (s.admitted_iff).2 h, hi]

/-- A valid sample runs RECOVER and what it emits into. -/
theorem step_sampleOf (h : 4 ≤ s.spb) {v : Bit} (hi : s.input = sampleOf v :: es) :
    step s = .next ((s.setInput es).quiet.recover v) := by
  have hs := (s.admitted_iff).2 h
  have hq : (s.setInput es).admitted = true := hs
  cases v <;>
    simp [step, hs, hi, sampleOf, portWord, decode, decodeSmp_levelByte, exec, execSmp0, execSmp1,
      State.sampleStep, hq]

/-- An invalid sample changes nothing. -/
theorem step_invalid (h : 4 ≤ s.spb) {b : Byte} (h0 : b ≠ 0#8) (h1 : b ≠ 1#8)
    (hi : s.input = .sample b :: es) : step s = .next (s.setInput es).quiet := by
  simp [step, (s.admitted_iff).2 h, hi, portWord, decode, exec_decodeSmp_invalid _ h0 h1]

/-- A chip handed to the decoder runs DECODE_CHIP. -/
theorem step_chip (h : 4 ≤ s.spb) {c : Bit} (hi : s.input = .chip c :: es) :
    step s = .next ((s.setInput es).quiet.decodeChip c) := by
  have hs := (s.admitted_iff).2 h
  cases hm : s.mstate <;> cases c <;>
    simp [step, hs, hi, portWord, decode, decodeMan, manWord, MState.code, hm, exec, State.inMState,
      State.decodeChip, pendingBit, nextMState, execManLowPhaseA0, execManLowPhaseA1,
      execManLowPhaseB0, execManLowPhaseB1, execManHighPhaseA0, execManHighPhaseA1,
      execManHighPhaseB0, execManHighPhaseB1]

/-- A data bit handed to the framer runs SHIFT_IN. -/
theorem step_dbit (h : 4 ≤ s.spb) {d : Bit} (hi : s.input = .dbit d :: es) :
    step s = .next ((s.setInput es).quiet.shiftIn d) := by
  have hs := (s.admitted_iff).2 h
  cases d <;> simp [step, hs, hi, portWord, decode, decodeDbit, exec, execBit0, execBit1]

/-- RESET. -/
theorem step_reset (h : 4 ≤ s.spb) (hi : s.input = .reset :: es) :
    step s = .next (s.setInput es).resetBlock := by
  simp [step, (s.admitted_iff).2 h, hi, portWord, decode, exec, execReset]

/-- A brand selection asked alone. -/
theorem step_brandOf (h : 4 ≤ s.spb) {w : BitVec 4} (hi : s.input = .brandOf w :: es) :
    step s = .next ((s.setInput es).quiet.putSelection (brandTable w)) := by
  simp [step, (s.admitted_iff).2 h, hi, portWord, decode, exec_decodeSof]

/-- A separate check. -/
theorem step_crc (h : 4 ≤ s.spb) {w : BitVec 18} {f : Word} (hi : s.input = .crc w f :: es) :
    step s = exec (decodeSel w f) (s.setInput es) := by
  simp [step, (s.admitted_iff).2 h, hi, portWord, decode]

/-- The sync test with the pattern in the register delivers. -/
theorem step_syncTest (h : 4 ≤ s.spb) (hi : s.input = .syncTest :: es)
    (hm : syncMatch s.sreg = true) : step s = .next ((s.setInput es).quiet.deliver s.sreg) := by
  have hf := (syncMatch_iff _).1 hm
  have hd : decodeFrm s.sreg = .ok (.frame (s.sreg.extractLsb' 44 4) (s.sreg.extractLsb' 24 20)
      (s.sreg.extractLsb' 16 8) (s.sreg.extractLsb' 0 16)) := if_pos hf
  simp [step, (s.admitted_iff).2 h, hi, portWord, decode, hd, exec, execFrame, frameWord_fields hf]

/-- The sync test without the pattern in the register does nothing. -/
theorem step_syncTest_fails (h : 4 ≤ s.spb) (hi : s.input = .syncTest :: es)
    (hm : syncMatch s.sreg = false) : step s = .next (s.setInput es).quiet := by
  have hf : ¬ s.sreg.extractLsb' 48 16 = 0xFFFE#16 := fun e => by
    simp [(syncMatch_iff _).2 e] at hm
  have hd : decodeFrm s.sreg = .error .noSync := if_neg hf
  simp [step, (s.admitted_iff).2 h, hi, portWord, decode, hd]

end step

/-- Everything a step that answers `t` can have done: one case per kind of event. -/
inductive StepCase (s t : State) : Prop
  | idle (hi : s.input = []) (ht : t = s.quiet)
  | valid (v : Bit) (es : List Event) (hi : s.input = sampleOf v :: es)
      (ht : t = (s.setInput es).quiet.recover v)
  | invalid (b : Byte) (es : List Event) (h0 : b ≠ 0#8) (h1 : b ≠ 1#8)
      (hi : s.input = .sample b :: es) (ht : t = (s.setInput es).quiet)
  | reset (es : List Event) (hi : s.input = .reset :: es) (ht : t = (s.setInput es).resetBlock)
  | chip (c : Bit) (es : List Event) (hi : s.input = .chip c :: es)
      (ht : t = (s.setInput es).quiet.decodeChip c)
  | dbit (d : Bit) (es : List Event) (hi : s.input = .dbit d :: es)
      (ht : t = (s.setInput es).quiet.shiftIn d)
  | syncTest (es : List Event) (hi : s.input = .syncTest :: es) (hm : syncMatch s.sreg = true)
      (ht : t = (s.setInput es).quiet.deliver s.sreg)
  | syncTestFails (es : List Event) (hi : s.input = .syncTest :: es)
      (hm : syncMatch s.sreg = false) (ht : t = (s.setInput es).quiet)
  | brandOf (w : BitVec 4) (es : List Event) (hi : s.input = .brandOf w :: es)
      (ht : t = (s.setInput es).quiet.putSelection (brandTable w))
  | crc (w : BitVec 18) (f : Word) (ok : Bit) (es : List Event) (hi : s.input = .crc w f :: es)
      (ht : t = (s.setInput es).quiet.putCrc ok)

/-- The inversion of `step`: every invariant is derived from this. -/
theorem stepCase_of_step {s t : State} (h : step s = .next t) : StepCase s t := by
  have h4 := spb_of_step h
  cases hi : s.input with
  | nil => rw [step_idle h4 hi] at h; cases h; exact .idle hi rfl
  | cons e es =>
    cases e with
    | sample b =>
      by_cases h0 : b = 0#8
      · subst h0; rw [step_sampleOf h4 (v := false) hi] at h; cases h; exact .valid false es hi rfl
      by_cases h1 : b = 1#8
      · subst h1; rw [step_sampleOf h4 (v := true) hi] at h; cases h; exact .valid true es hi rfl
      rw [step_invalid h4 h0 h1 hi] at h; cases h; exact .invalid b es h0 h1 hi rfl
    | reset => rw [step_reset h4 hi] at h; cases h; exact .reset es hi rfl
    | chip c => rw [step_chip h4 hi] at h; cases h; exact .chip c es hi rfl
    | dbit d => rw [step_dbit h4 hi] at h; cases h; exact .dbit d es hi rfl
    | brandOf w => rw [step_brandOf h4 hi] at h; cases h; exact .brandOf w es hi rfl
    | syncTest =>
      cases hm : syncMatch s.sreg
      · rw [step_syncTest_fails h4 hi hm] at h; cases h; exact .syncTestFails es hi hm rfl
      · rw [step_syncTest h4 hi hm] at h; cases h; exact .syncTest es hi hm rfl
    | crc w f =>
      rw [step_crc h4 hi, exec_decodeSel] at h
      split at h
      · split at h
        · cases h; exact .crc w f _ es hi rfl
        · cases h
      · cases h; exact .crc w f _ es hi rfl

section observation
variable {n : Nat} {s t : State}

/-- The observation unrolls one step. -/
theorem states_succ (h : step s = .next t) : states (n + 1) s = t :: states n t := by
  simp [states, h]

/-- The outputs unroll one step. -/
theorem observed_succ (h : step s = .next t) : observed (n + 1) s = t.out :: observed n t := by
  simp [observed, states_succ h]

end observation

section queue
variable (s : State) (es : List Event)

/-- SHIFT_IN does not look at the events still to come. -/
theorem State.shiftIn_setInput (d : Bit) : (s.setInput es).shiftIn d = (s.shiftIn d).setInput es := by
  rcases s.shiftIn_cases d with ⟨hm, h⟩ | ⟨hm, h⟩
  · rw [h, State.shiftIn_of_sync _ _ (by simpa using hm)]; rfl
  · rw [h, State.shiftIn_of_noSync _ _ (by simpa using hm)]; rfl

/-- DECODE_CHIP does not look at the events still to come. -/
theorem State.decodeChip_setInput (c : Bit) :
    (s.setInput es).decodeChip c = (s.decodeChip c).setInput es := by
  rcases s.decodeChip_cases c with ⟨hp, h⟩ | ⟨d, hp, h⟩
  · rw [h, State.decodeChip_silent _ _ (by simpa using hp)]; rfl
  · rw [h, State.decodeChip_emitting _ _ (by simpa using hp), ← State.shiftIn_setInput]; rfl

/-- RECOVER does not look at the events still to come. -/
theorem State.recover_setInput (v : Bit) : (s.setInput es).recover v = (s.recover v).setInput es := by
  rcases s.recover_cases v with ⟨hv, h⟩ | ⟨hv, hd, h⟩ | ⟨hv, hd, h⟩
  · rw [h, State.recover_edge _ _ (by simpa using hv)]; rfl
  · rw [h, State.recover_silent _ _ (by simpa using hv) (by simpa using hd)]; rfl
  · rw [h, State.recover_chip _ _ (by simpa using hv) (by simpa using hd),
      ← State.decodeChip_setInput]; rfl

end queue

end Sys2Proof.Machine
end

