-- ==== Sys2Proof/Tests/Slice0.lean ====
section
/-!
SUPPORT. Tests of one step each, with the values of 95_test_vectors.md or of a rule's own worked example
(named at each), and for every obligation with hypotheses a witness that meets them together.
-/

namespace Sys2Proof.Machine.Tests

open Sys2Proof Sys2Proof.Machine

/-- A small state with `SPB` = 8, nothing presented and nothing asserted. -/
def blk (lastSample : Bit) (count : Nat) (m : MState) (sreg : Word) : State :=
  { State.reset with lastSample := lastSample, samplesSinceEdge := count, mstate := m, sreg := sreg }

/-- The same with these outputs asserted. -/
def blkOut (lastSample : Bit) (count : Nat) (m : MState) (sreg : Word) (o : Outputs) : State :=
  { blk lastSample count m sreg with out := o }

/-- The reset state with these events presented. -/
def fed (es : List Event) : State := { State.reset with input := es }

/-! ### WellFormed -/

/-- R174: 0x0FFFF has bit 16 clear; the one check of WellFormed refuses it. -/
theorem test_wf_rejects : (Instr.crcForce 0x0FFFF#17 0).wellFormed = false := by decide
/-- R174: 0x10000 and 0x1FFFF are the ends of the admitted range. -/
theorem test_wf_admits :
    (Instr.crcForce 0x10000#17 0).wellFormed = true ∧ (Instr.crcForce 0x1FFFF#17 0).wellFormed = true := by
  decide

/-! ### Decode: words written out bit by bit from 30_encoding.md -/

/-- R71. -/
theorem test_decode_smp :
    decode (.smp 0b00000000#8) = .ok .smp0 ∧ decode (.smp 0b00000001#8) = .ok .smp1 := by decide
/-- R71 with the opcode table's rows of SMPX: the highest set bit, at both ends of each row. -/
theorem test_decode_smpx_high :
    decode (.smp 0b11111111#8) = .ok (.smpxB7 0b1111111#7) ∧
    decode (.smp 0b10000000#8) = .ok (.smpxB7 0#7) ∧
    decode (.smp 0b01111111#8) = .ok (.smpxB6 0b111111#6) ∧
    decode (.smp 0b00100001#8) = .ok (.smpxB5 0b00001#5) := by decide
/-- The same, the lower rows. -/
theorem test_decode_smpx_low :
    decode (.smp 0b00010010#8) = .ok (.smpxB4 0b0010#4) ∧
    decode (.smp 0b00001000#8) = .ok (.smpxB3 0#3) ∧
    decode (.smp 0b00000111#8) = .ok (.smpxB2 0b11#2) ∧
    decode (.smp 0b00000010#8) = .ok (.smpxB1 0#1) := by decide
/-- R73, R121 to R128: `mstate[1:0]` then the chip. -/
theorem test_decode_man_low :
    decode (.man 0b000#3) = .ok .manLowPhaseA0 ∧ decode (.man 0b001#3) = .ok .manLowPhaseA1 ∧
    decode (.man 0b010#3) = .ok .manLowPhaseB0 ∧ decode (.man 0b011#3) = .ok .manLowPhaseB1 := by decide
/-- The same, the high states. -/
theorem test_decode_man_high :
    decode (.man 0b100#3) = .ok .manHighPhaseA0 ∧ decode (.man 0b101#3) = .ok .manHighPhaseA1 ∧
    decode (.man 0b110#3) = .ok .manHighPhaseB0 ∧ decode (.man 0b111#3) = .ok .manHighPhaseB1 := by decide
/-- R141, R142. -/
theorem test_decode_dbit : decode (.dbit 0b0#1) = .ok .bit0 ∧ decode (.dbit 0b1#1) = .ok .bit1 := by decide
/-- R74, R75: the frame of R176's example, and the same with sync bit 48 set. -/
theorem test_decode_frm :
    decode (.frm 0xFFFEA12345805E80#64) = .ok (.frame 0xA#4 0x12345#20 0x80#8 0x5E80#16) ∧
    decode (.frm 0xFFFFA12345805E80#64) = .error .noSync := by decide
/-- R77. -/
theorem test_decode_sof :
    decode (.sof 0b0000#4) = .ok .polyOtherSof0 ∧ decode (.sof 0b0010#4) = .ok .poly2gigSof2 ∧
    decode (.sof 0b1000#4) = .ok .polyHoneywellSof8 ∧ decode (.sof 0b1101#4) = .ok .polyVivintSofD ∧
    decode (.sof 0b1111#4) = .ok .poly2gigSofF := by decide
/-- R78: `force_en` is bit 17, `force_poly` bits 16..0. -/
theorem test_decode_sel :
    decode (.sel 0b000000000000000000#18 7) = .ok (.crcAuto 0#17 7) ∧
    decode (.sel 0b011000000000000101#18 7) = .ok (.crcAuto 0x18005#17 7) ∧
    decode (.sel 0b111000000001010000#18 7) = .ok (.crcForce 0x18050#17 7) ∧
    decode (.sel 0b101000000000000101#18 7) = .ok (.selReserved 0x8005#16 7) := by decide
/-- R230: the reset input. -/
theorem test_decode_reset : decode .reset = .ok .reset := by decide
/-- The table's numbering (log entry 11). -/
theorem test_decode_table_words :
    decodeTableWord 8 0x80 = some (.smpxB7 0#7) ∧ decodeTableWord 3 5 = some .manHighPhaseA1 ∧
    decodeTableWord 64 0xFFFE000000000000 = some (.frame 0#4 0#20 0#8 0#16) ∧
    decodeTableWord 18 0x30000 = some (.crcForce 0x10000#17 0) ∧
    decodeTableWord 64 0 = none := by decide

/-! ### Stage 1: 95_test_vectors.md 2.1, single-step vectors -/

/-- (0, 3) `S0`: chip 0 at the count 4. -/
theorem test_smp0_chip :
    exec .smp0 (blk false 3 .lowPhaseA 0) =
      .next (blkOut false 4 .lowPhaseA 0 { chip := some false }) := rfl
/-- (0, 1000003) `S0`: no bound on the counter. -/
theorem test_smp0_unbounded :
    exec .smp0 (blk false 1000003 .lowPhaseA 0) =
      .next (blkOut false 1000004 .lowPhaseA 0 { chip := some false }) := rfl
/-- (0, 3) `S1`: the edge wins over the count. -/
theorem test_smp1_edge :
    exec .smp1 (blk false 3 .lowPhaseA 0) = .next (blk true 1 .lowPhaseA 0) := rfl
/-- (1, 11) `S1`: the second chip of a run; here it also releases a pending 1 (R128). -/
theorem test_smp1_chip :
    exec .smp1 (blk true 11 .highPhaseB 4) =
      .next (blkOut true 12 .highPhaseA 9 { chip := some true, bit := some true }) := rfl
/-- (1, 3) `SX(0x80)` and the other rows: nothing changes (R103). -/
theorem test_smpx_b7 :
    exec (.smpxB7 0#7) (blk true 3 .lowPhaseA 0) = .next (blk true 3 .lowPhaseA 0) := rfl
theorem test_smpx_b6 :
    exec (.smpxB6 0x3F#6) (blk true 3 .lowPhaseA 0) = .next (blk true 3 .lowPhaseA 0) := rfl
theorem test_smpx_b5 :
    exec (.smpxB5 0#5) (blk true 3 .lowPhaseA 0) = .next (blk true 3 .lowPhaseA 0) := rfl
theorem test_smpx_b4 :
    exec (.smpxB4 0#4) (blk true 3 .lowPhaseA 0) = .next (blk true 3 .lowPhaseA 0) := rfl
theorem test_smpx_b3 :
    exec (.smpxB3 0#3) (blk true 3 .lowPhaseA 0) = .next (blk true 3 .lowPhaseA 0) := rfl
theorem test_smpx_b2 :
    exec (.smpxB2 0#2) (blk true 3 .lowPhaseA 0) = .next (blk true 3 .lowPhaseA 0) := rfl
theorem test_smpx_b1 :
    exec (.smpxB1 0#1) (blk true 3 .lowPhaseA 0) = .next (blk true 3 .lowPhaseA 0) := rfl

/-! ### Stage 2: vectors M1 to M8 -/

theorem test_man_m1 :
    exec .manLowPhaseA0 (blk false 0 .lowPhaseA 0) = .next (blk false 0 .lowPhaseA 0) := rfl
theorem test_man_m2 :
    exec .manLowPhaseA1 (blk false 0 .lowPhaseA 0) = .next (blk false 0 .highPhaseB 0) := rfl
theorem test_man_m3 :
    exec .manLowPhaseB0 (blk false 0 .lowPhaseB 3) =
      .next (blkOut false 0 .lowPhaseA 6 { bit := some false }) := rfl
theorem test_man_m4 :
    exec .manLowPhaseB1 (blk false 0 .lowPhaseB 3) =
      .next (blkOut false 0 .highPhaseA 6 { bit := some false }) := rfl
theorem test_man_m5 :
    exec .manHighPhaseA0 (blk false 0 .highPhaseA 0) = .next (blk false 0 .lowPhaseB 0) := rfl
theorem test_man_m6 :
    exec .manHighPhaseA1 (blk false 0 .highPhaseA 0) = .next (blk false 0 .highPhaseA 0) := rfl
theorem test_man_m7 :
    exec .manHighPhaseB0 (blk false 0 .highPhaseB 3) =
      .next (blkOut false 0 .lowPhaseA 7 { bit := some true }) := rfl
theorem test_man_m8 :
    exec .manHighPhaseB1 (blk false 0 .highPhaseB 3) =
      .next (blkOut false 0 .highPhaseA 7 { bit := some true }) := rfl

/-! ### Stage 3: vectors F9 to F13 -/

/-- F9. -/
theorem test_bit0_delivers :
    exec .bit0 (blk false 0 .lowPhaseA 0x7FFF000000000000) =
      .next (blkOut false 0 .lowPhaseA 0 { frame := some (frameEvent 0xFFFE000000000000) }) := rfl
/-- F13. -/
theorem test_bit0_shifts :
    exec .bit0 (blk false 0 .lowPhaseA 0x3FFF800000000000) =
      .next (blk false 0 .lowPhaseA 0x7FFF000000000000) := rfl
/-- F10. -/
theorem test_bit1_delivers :
    exec .bit1 (blk false 0 .lowPhaseA 0x7FFF000000000000) =
      .next (blkOut false 0 .lowPhaseA 0 { frame := some (frameEvent 0xFFFE000000000001) }) := rfl
/-- F11: bit 63 is lost. -/
theorem test_bit1_drops_top :
    exec .bit1 (blk false 0 .lowPhaseA 0x8000000000000001) = .next (blk false 0 .lowPhaseA 3) := rfl
/-- The frame of R176's example standing in the register. -/
theorem test_frame :
    exec (.frame 0xA#4 0x12345#20 0x80#8 0x5E80#16) (blk false 0 .highPhaseA 0xFFFEA12345805E80) =
      .next (blkOut false 0 .highPhaseA 0 { frame := some (frameEvent 0xFFFEA12345805E80) }) := rfl

/-! ### Stage 4: vector K1, the CR vectors and R192's example -/

/-- The answer of a brand selection, run alone in the reset state: brand code, polynomial, assumed flag. -/
def answers (i : Instr) (code : BitVec 2) (p : Poly) (assumed : Bit) : Prop :=
  ∃ x : Selection, exec i State.reset = .next { State.reset with out := { selection := some x } } ∧
    x.brand.code = code ∧ x.polyUsed = p ∧ x.polyAssumed = assumed

theorem test_poly_sof0 : answers .polyOtherSof0 0b00#2 0x18050#17 false := ⟨_, rfl, rfl, rfl, rfl⟩
theorem test_poly_sof1 : answers .polyOtherSof1 0b00#2 0x18050#17 false := ⟨_, rfl, rfl, rfl, rfl⟩
theorem test_poly_sof2 : answers .poly2gigSof2 0b01#2 0x18050#17 false := ⟨_, rfl, rfl, rfl, rfl⟩
theorem test_poly_sof3 : answers .poly2gigSof3 0b01#2 0x18050#17 false := ⟨_, rfl, rfl, rfl, rfl⟩
theorem test_poly_sof4 : answers .poly2gigSof4 0b01#2 0x18050#17 false := ⟨_, rfl, rfl, rfl, rfl⟩
theorem test_poly_sof5 : answers .polyOtherSof5 0b00#2 0x18050#17 false := ⟨_, rfl, rfl, rfl, rfl⟩
theorem test_poly_sof6 : answers .polyOtherSof6 0b00#2 0x18050#17 false := ⟨_, rfl, rfl, rfl, rfl⟩
theorem test_poly_sof7 : answers .poly2gigSof7 0b01#2 0x18050#17 false := ⟨_, rfl, rfl, rfl, rfl⟩
theorem test_poly_sof8 : answers .polyHoneywellSof8 0b10#2 0x18005#17 false := ⟨_, rfl, rfl, rfl, rfl⟩
theorem test_poly_sof9 : answers .poly2gigSof9 0b01#2 0x18050#17 false := ⟨_, rfl, rfl, rfl, rfl⟩
theorem test_poly_sofA : answers .poly2gigSofA 0b01#2 0x18050#17 false := ⟨_, rfl, rfl, rfl, rfl⟩
theorem test_poly_sofB : answers .poly2gigSofB 0b01#2 0x18050#17 false := ⟨_, rfl, rfl, rfl, rfl⟩
theorem test_poly_sofC : answers .poly2gigSofC 0b01#2 0x18050#17 false := ⟨_, rfl, rfl, rfl, rfl⟩
theorem test_poly_sofD : answers .polyVivintSofD 0b11#2 0x18050#17 true := ⟨_, rfl, rfl, rfl, rfl⟩
theorem test_poly_sofE : answers .polyVivintSofE 0b11#2 0x18050#17 true := ⟨_, rfl, rfl, rfl, rfl⟩
theorem test_poly_sofF : answers .poly2gigSofF 0b01#2 0x18050#17 false := ⟨_, rfl, rfl, rfl, rfl⟩

/-- CR1, CR13: AUTO on a valid 2GIG frame and on the same with bit 0 flipped. -/
theorem test_crc_auto_2gig :
    crcCheck 0xFFFEA12345805E80 .auto = true ∧ crcCheck 0xFFFEA12345805E81 .auto = false := by
  decide +kernel
/-- CR2, CR10b: AUTO on Honeywell frames. -/
theorem test_crc_auto_honeywell :
    crcCheck 0xFFFE812345808B86 .auto = true ∧ crcCheck 0xFFFE80006311E170 .auto = false := by
  decide +kernel
/-- CR21, and R174's other forced polynomial on CR1 with its final sum. -/
theorem test_crc_force :
    crcCheck 0x0000000000018005 (.force 0x18005#17) = true ∧
    crcCheck 0x0000000000018005 (.force 0x18050#17) = false ∧
    finalSum 0xFFFEA12345805E80 0x11021#17 = 0x7E65 := by decide +kernel
/-- CRC.FORCE presents the check's answer. -/
theorem test_crc_force_runs :
    exec (.crcForce 0x18005#17 5) State.reset =
      .next { State.reset with out := { crcOk := some (crcCheck 5 (.force 0x18005#17)) } } := rfl
/-- CRC.AUTO presents the check's answer. -/
theorem test_crc_auto_runs :
    exec (.crcAuto 0x18005#17 5) State.reset =
      .next { State.reset with out := { crcOk := some (crcCheck 5 .auto) } } := rfl
/-- R174: the reserved selector is refused. -/
theorem test_sel_reserved : exec (.selReserved 0#16 5) State.reset = .refused .reservedSelector := rfl
/-- R170, R177: the remainder of R176's message with zero check bits. -/
theorem test_remainder :
    finalSum 0xFFFEA12345800000 0x18050#17 = 0x5E80 ∧
    remainder16 0xFFFEA12345800000 0x18050#17 = 0x5E80 ∧
    checkBits 0xA1234580#32 0x18050#17 = 0x5E80 := by decide +kernel
/-- R192's example. -/
theorem test_frame_event :
    frameEvent 0xFFFE812345808B86 =
      ⟨0xFFFE812345808B86, 0x8#4, .honeywell, 0x18005#17, false, true, false⟩ := by decide +kernel

/-! ### RESET and the step -/

/-- R230's example. -/
theorem test_reset :
    exec .reset (blk true 7 .highPhaseB 0x7FFF000000000000) = .next State.reset := rfl
/-- One sample through all four stages: the flushing chip of a transmission delivers the frame (R233). -/
theorem test_step_delivers :
    step { blk false 3 .lowPhaseB 0x7FFF000000000000 with input := [sampleOf false] } =
      .next (blkOut false 4 .lowPhaseA 0
        { chip := some false, bit := some false, frame := some (frameEvent 0xFFFE000000000000) }) := rfl
/-- A placed word is the one the next step runs. -/
theorem test_withFetchWord :
    step (State.reset.withFetchWord 3 5) = exec .manHighPhaseA1 (blk false 0 .highPhaseA 0) := rfl


/-! ### Witnesses: the hypotheses of each obligation, met together

Each theorem is named after its obligation. Where a statement has several clauses there is one conjunct for
each, at a boundary value. -/

theorem witness_StepRunsDecodedEvent :
    4 ≤ (fed [.sample 1]).spb ∧ (fed [.sample 1]).input = .sample 1 :: [] ∧
    decode (portWord (.sample 1) (fed [.sample 1])) = .ok .smp1 := by decide
theorem witness_StepWithoutInputHoldsState :
    4 ≤ State.reset.spb ∧ State.reset.input = [] := by decide
/-- The ends of the refused range. -/
theorem witness_SmallSpbIsRefused :
    (State.reset.setSpb 3).spb < 4 ∧ (State.reset.setSpb 0).spb < 4 := by decide
/-- At the least admitted `SPB`. -/
theorem witness_EdgeSampleRestartsCounter :
    (4 ≤ ((blk true 5 .lowPhaseA 0).setSpb 4).spb ∧ ((blk true 5 .lowPhaseA 0).setSpb 4).lastSample = true) ∧
    (4 ≤ State.reset.spb ∧ State.reset.lastSample = false) := by decide
/-- One sample before the sampling instant and right after it. -/
theorem witness_SameLevelSampleCounts :
    (let s := blk false 2 .lowPhaseA 0;
      4 ≤ s.spb ∧ (s.samplesSinceEdge + 1) % s.spb ≠ s.spb / 2 ∧ s.lastSample = false) ∧
    (let s := blk true 4 .lowPhaseA 0;
      4 ≤ s.spb ∧ (s.samplesSinceEdge + 1) % s.spb ≠ s.spb / 2 ∧ s.lastSample = true) := by decide
/-- The four clauses, at the first and the second sampling instant. -/
theorem witness_SampleEmitsChip :
    (∀ s ∈ [blk false 3 .lowPhaseA 0, blk false 11 .highPhaseA 0, blk true 3 .lowPhaseA 0,
        blk true 11 .highPhaseA 0], 4 ≤ s.spb ∧ (s.samplesSinceEdge + 1) % s.spb = s.spb / 2) ∧
    (blk false 3 .lowPhaseA 0).mstate = .lowPhaseA ∧ (blk false 11 .highPhaseA 0).mstate = .highPhaseA ∧
    (blk true 3 .lowPhaseA 0).mstate = .lowPhaseA ∧ (blk true 11 .highPhaseA 0).mstate = .highPhaseA := by
  decide
/-- Both levels and both data bits; the register one bit away from the pattern. -/
theorem witness_SampleReleasesPendingBit :
    (let s := blk false 3 .lowPhaseB 0x7FFE800000000000;
      4 ≤ s.spb ∧ (s.samplesSinceEdge + 1) % s.spb = s.spb / 2 ∧
      s.mstate = (if false then .highPhaseB else .lowPhaseB) ∧
      ((s.sreg <<< 1) ||| (if false then 1 else 0)).extractLsb' 48 16 ≠ 0xFFFE#16 ∧ s.lastSample = false) ∧
    (let s := blk true 3 .highPhaseB 0;
      4 ≤ s.spb ∧ (s.samplesSinceEdge + 1) % s.spb = s.spb / 2 ∧
      s.mstate = (if true then .highPhaseB else .lowPhaseB) ∧
      ((s.sreg <<< 1) ||| (if true then 1 else 0)).extractLsb' 48 16 ≠ 0xFFFE#16 ∧ s.lastSample = true) := by
  decide
/-- Both levels and both data bits, with the pattern one shift away. -/
theorem witness_SampleDeliversFrame :
    (let s := blk false 3 .lowPhaseB 0x7FFF000000000000;
      4 ≤ s.spb ∧ (s.samplesSinceEdge + 1) % s.spb = s.spb / 2 ∧
      s.mstate = (if false then .highPhaseB else .lowPhaseB) ∧
      0xFFFE000000000000 = (s.sreg <<< 1) ||| (if false then 1 else 0) ∧
      (0xFFFE000000000000 : Word).extractLsb' 48 16 = 0xFFFE#16 ∧ s.lastSample = false) ∧
    (let s := blk true 3 .highPhaseB 0xFFFF000000000000;
      4 ≤ s.spb ∧ (s.samplesSinceEdge + 1) % s.spb = s.spb / 2 ∧
      s.mstate = (if true then .highPhaseB else .lowPhaseB) ∧
      0xFFFE000000000001 = (s.sreg <<< 1) ||| (if true then 1 else 0) ∧
      (0xFFFE000000000001 : Word).extractLsb' 48 16 = 0xFFFE#16 ∧ s.lastSample = true) := by decide
/-- The least and the greatest invalid byte. -/
theorem witness_InvalidSampleChangesNothing :
    ((0x02 : Byte) ≠ 0x00 ∧ (0x02 : Byte) ≠ 0x01) ∧ ((0xFF : Byte) ≠ 0x00 ∧ (0xFF : Byte) ≠ 0x01) := by
  decide
/-- A run after an edge and one right after reset; the first sample, the sampling instant and the last. -/
theorem witness_ChipPositionsInRun :
    (let s := fed (runOf 8 true ++ []);
      4 ≤ s.spb ∧ (s.lastSample ≠ true ∨ s.samplesSinceEdge = 0) ∧ s.input = runOf 8 true ++ []) ∧
    (let s := fed (runOf 8 false ++ [.reset]);
      4 ≤ s.spb ∧ (s.lastSample ≠ false ∨ s.samplesSinceEdge = 0) ∧
      s.input = runOf 8 false ++ [.reset]) ∧
    ∀ n ∈ [1, 4, 8], 1 ≤ n ∧ n ≤ 8 := by decide
/-- Runs just below and at `HALF`. -/
theorem witness_ChipCountOfRun :
    ∀ L ∈ [3, 4], let s := fed (runOf L true ++ []);
      4 ≤ s.spb ∧ (s.lastSample ≠ true ∨ s.samplesSinceEdge = 0) ∧ s.input = runOf L true ++ [] := by
  decide
theorem witness_InvalidBytesAreInvisible :
    4 ≤ State.reset.spb ∧
    ([0x01, 0x01] : List Byte) = [0x01, 0x7F, 0x01, 0x02].filter (fun b => b == 0x00 || b == 0x01) := by
  decide
/-- Two counters a multiple of `SPB` apart, at the sampling instant. -/
theorem witness_CounterResidueSuffices :
    SamePhase { blk false 3 .lowPhaseA 0 with input := [sampleOf false] }
      { blk false 11 .lowPhaseA 0 with input := [sampleOf false] } ∧
    step { blk false 3 .lowPhaseA 0 with input := [sampleOf false] } =
      .next (blkOut false 4 .lowPhaseA 0 { chip := some false }) := ⟨⟨rfl, rfl⟩, rfl⟩
/-- A chip recovered from a sample and a chip handed in, in states of all four kinds. -/
theorem witness_ChipRunsTransitionTable :
    step { blk false 3 .lowPhaseA 0 with input := [sampleOf false] } =
      .next (blkOut false 4 .lowPhaseA 0 { chip := some false }) ∧
    step { blk true 3 .lowPhaseB 0 with input := [sampleOf true] } =
      .next (blkOut true 4 .highPhaseA 0 { chip := some true, bit := some false }) ∧
    step { blk true 3 .highPhaseA 0 with input := [.chip false] } = .next (blk true 3 .lowPhaseB 0) ∧
    step { blk true 3 .highPhaseB 0 with input := [.chip false] } =
      .next (blkOut true 3 .lowPhaseA 1 { bit := some true }) := ⟨rfl, rfl, rfl, rfl⟩
theorem witness_SteadyChipsEmitNothing :
    (blk false 0 .lowPhaseA 0).mstate = .lowPhaseA ∧ (blk false 0 .highPhaseA 0).mstate = .highPhaseA ∧
    (4 ≤ (fed [.chip false]).spb ∧ (fed [.chip false]).mstate = (if false then .highPhaseA else .lowPhaseA) ∧
      (fed [.chip false]).input = List.replicate 1 (.chip false) ++ []) ∧
    (let s := { blk true 0 .highPhaseA 0 with input := List.replicate 3 (Event.chip true) };
      4 ≤ s.spb ∧ s.mstate = (if true then .highPhaseA else .lowPhaseA) ∧
      s.input = List.replicate 3 (Event.chip true) ++ []) := by decide
theorem witness_MidSymbolChipsPendBit :
    (blk false 0 .lowPhaseA 0).mstate = .lowPhaseA ∧ (blk false 0 .highPhaseA 0).mstate = .highPhaseA := by
  decide
/-- Both pending bits, each with and without the pattern one shift away. -/
theorem witness_EmittingTransitionsReleaseBit :
    (blk false 0 .lowPhaseB 0).mstate = .lowPhaseB ∧ (blk false 0 .highPhaseB 0).mstate = .highPhaseB ∧
    (0xFFFE000000000000 : Word) = (0x7FFF000000000000 <<< 1) ||| (if false then 1 else 0) ∧
    (0xFFFE000000000000 : Word).extractLsb' 48 16 = 0xFFFE#16 ∧
    (9 : Word) = (4 <<< 1) ||| (if true then 1 else 0) ∧ (9 : Word).extractLsb' 48 16 ≠ 0xFFFE#16 := by
  decide
theorem witness_UnselectedRowIsRefused :
    State.reset.mstate ≠ .lowPhaseB ∧ State.reset.mstate ≠ .highPhaseA ∧
    State.reset.mstate ≠ .highPhaseB ∧ (blk false 0 .highPhaseB 0).mstate ≠ .lowPhaseA ∧
    State.reset.sreg ≠ 0xFFFE#16 ++ 0xA#4 ++ 0x12345#20 ++ 0x80#8 ++ 0x5E80#16 := by decide
/-- A reset, a chip handed in, and a sample at the sampling instant, each of which moves the decoder. -/
theorem witness_OnlyChipOrResetMovesDecoder :
    (step { blk false 0 .highPhaseB 0 with input := [.reset] } = .next State.reset ∧
      State.reset.mstate ≠ .highPhaseB) ∧
    (step (fed [.chip true]) = .next (blk false 0 .highPhaseB 0) ∧
      (blk false 0 .highPhaseB 0).mstate ≠ .lowPhaseA) ∧
    (step { blk true 3 .lowPhaseA 0 with input := [sampleOf true] } =
      .next (blkOut true 4 .highPhaseB 0 { chip := some true })) := ⟨⟨rfl, by decide⟩, ⟨rfl, by decide⟩, rfl⟩
theorem witness_EqualChipsFixDecoder :
    4 ≤ (fed [.chip true, .chip true]).spb ∧
    (fed [.chip true, .chip true]).input = .chip true :: .chip true :: [] := by decide
/-- First data bit 1 from LOW_PHASE_A and first data bit 0 from HIGH_PHASE_A; a single symbol included. -/
theorem witness_ManchesterRoundTrip :
    (let s := fed ((true :: [false]).flatMap symbolChips ++ .chip false :: []);
      4 ≤ s.spb ∧ s.mstate = (if true then .lowPhaseA else .highPhaseA) ∧
      s.input = (true :: [false]).flatMap symbolChips ++ .chip false :: []) ∧
    (let s := { blk true 0 .highPhaseA 0 with input := (symbolChips false ++ [Event.chip true]) };
      4 ≤ s.spb ∧ s.mstate = (if false then .lowPhaseA else .highPhaseA) ∧
      s.input = (false :: []).flatMap symbolChips ++ .chip true :: []) := by decide
theorem witness_OutOfPhaseComplements :
    (let s := fed ((List.replicate 3 false).flatMap symbolChips ++ []);
      4 ≤ s.spb ∧ s.mstate = (if false then .highPhaseA else .lowPhaseA) ∧
      s.input = (List.replicate 3 false).flatMap symbolChips ++ []) ∧
    (let s := { blk true 0 .highPhaseA 0 with input := (List.replicate 1 true).flatMap symbolChips };
      4 ≤ s.spb ∧ s.mstate = (if true then .highPhaseA else .lowPhaseA) ∧
      s.input = (List.replicate 1 true).flatMap symbolChips ++ []) := by decide
theorem witness_LowRunLocksDecoder :
    let s := { (blk true 2 .highPhaseA 0).setSpb 4 with input := runOf 6 false };
    4 ≤ s.spb ∧ s.lastSample = true ∧ s.input = runOf (s.spb / 2 + s.spb) false ++ [] := by decide
/-- Both bits; a register that delivers and one that does not. -/
theorem witness_BitShiftsOrDelivers :
    (0xFFFE000000000000 : Word) =
      ((blk false 0 .lowPhaseA 0x7FFF000000000000).sreg <<< 1) ||| (if false then 1 else 0) ∧
    (0xFFFE000000000000 : Word).extractLsb' 48 16 = 0xFFFE#16 ∧
    (1 : Word) = (State.reset.sreg <<< 1) ||| (if true then 1 else 0) ∧
    (1 : Word).extractLsb' 48 16 ≠ 0xFFFE#16 := by decide
theorem witness_FrameRowDelivers :
    (0xFFFEA12345805E80 : Word).extractLsb' 48 16 = 0xFFFE#16 ∧
    (blk false 0 .lowPhaseA 0xFFFEA12345805E80).sreg = 0xFFFEA12345805E80 := by decide
/-- A delivery inside a sample's step, one by a handed-in chip and one by a handed-in data bit. -/
theorem witness_DeliveryClearsOnlyRegister :
    (step { blk false 3 .lowPhaseB 0x7FFF000000000000 with input := [sampleOf false] } =
      .next (blkOut false 4 .lowPhaseA 0 ⟨some false, some false,
        some (frameEvent 0xFFFE000000000000), none, none⟩)) ∧
    (step { blk false 0 .lowPhaseB 0x7FFF000000000000 with input := [.chip true] } =
      .next (blkOut false 0 .highPhaseA 0 ⟨none, some false,
        some (frameEvent 0xFFFE000000000000), none, none⟩)) ∧
    (step { blk false 0 .lowPhaseB 0x7FFF000000000000 with input := [.dbit false] } =
      .next (blkOut false 0 .lowPhaseB 0 { frame := some (frameEvent 0xFFFE000000000000) })) :=
  ⟨rfl, rfl, rfl⟩
/-- A shift that delivers and one that does not. -/
theorem witness_DeliveryDependsOnOldBits :
    exec (if true then .bit1 else .bit0) (blk false 0 .lowPhaseA 0x7FFF000000000000) =
      .next (blkOut false 0 .lowPhaseA 0 { frame := some (frameEvent 0xFFFE000000000001) }) ∧
    exec (if false then .bit1 else .bit0) (blk false 0 .lowPhaseA 0x3FFF800000000000) =
      .next (blk false 0 .lowPhaseA 0x7FFF000000000000) := ⟨rfl, rfl⟩
theorem witness_RegisterHoldsNewestBits :
    let s := fed ([true, false, true].map .dbit ++ []);
    4 ≤ s.spb ∧ s.sreg = 0 ∧ s.input = [true, false, true].map .dbit ++ [] ∧
    framesIn (observed 3 s) = [] := ⟨by decide, rfl, rfl, rfl⟩
/-- The longest list the statement admits. -/
theorem witness_NoFrameBeforeSixtyFourBits :
    let s := fed ((List.replicate 63 true).map .dbit ++ []);
    4 ≤ s.spb ∧ s.sreg = 0 ∧ s.input = (List.replicate 63 true).map .dbit ++ [] ∧
    (List.replicate 63 true).length < 64 := by decide
/-- The shortest preamble. -/
theorem witness_PreambleOfAnyLengthDelivers :
    let f : Word := 0xFFFEA12345805E80;
    let s := fed ((List.replicate 15 true ++ false :: bitsFrom 48 f).map .dbit ++ []);
    4 ≤ s.spb ∧ s.sreg = 0 ∧ 15 ≤ 15 ∧ f.extractLsb' 48 16 = 0xFFFE#16 ∧
    s.input = (List.replicate 15 true ++ false :: bitsFrom 48 f).map .dbit ++ [] := by decide
theorem witness_FrameEventOutputs :
    (0xFFFEA12345805E80 : Word).extractLsb' 44 4 ≠ 0x8#4 := by decide
/-- A value of `sof` in each of the four rows. -/
theorem witness_BrandTableOnFrameEvent :
    (0xFFFEF00000000000 : Word).extractLsb' 44 4 ∈
      [0x2#4, 0x3#4, 0x4#4, 0x7#4, 0x9#4, 0xA#4, 0xB#4, 0xC#4, 0xF#4] ∧
    (0xFFFE812345808B86 : Word).extractLsb' 44 4 = 0x8#4 ∧
    (0xFFFED00ABC04D870 : Word).extractLsb' 44 4 ∈ [0xD#4, 0xE#4] ∧
    (0xFFFE000000000000 : Word).extractLsb' 44 4 ∈ [0x0#4, 0x1#4, 0x5#4, 0x6#4] := by decide
/-- One row of each of the four lists. -/
theorem witness_PolyRowsAnswerSelection :
    Instr.poly2gigSofF ∈ [Instr.poly2gigSof2, .poly2gigSof3, .poly2gigSof4, .poly2gigSof7, .poly2gigSof9,
      .poly2gigSofA, .poly2gigSofB, .poly2gigSofC, .poly2gigSofF] ∧
    Instr.polyHoneywellSof8 = .polyHoneywellSof8 ∧
    Instr.polyVivintSofE ∈ [Instr.polyVivintSofD, .polyVivintSofE] ∧
    Instr.polyOtherSof0 ∈ [Instr.polyOtherSof0, .polyOtherSof1, .polyOtherSof5, .polyOtherSof6] := by decide
/-- The least and the greatest admitted polynomial. -/
theorem witness_CrcRowsAnswerDivision :
    (0x10000#17).getLsbD 16 = true ∧ (0x1FFFF#17).getLsbD 16 = true := by decide
theorem witness_ReservedSelectorIsRefused :
    ((0x20000#18).getLsbD 17 = true ∧ (0x20000#18).getLsbD 16 = false) ∧
    ((0x2FFFF#18).getLsbD 17 = true ∧ (0x2FFFF#18).getLsbD 16 = false) ∧
    (0x0FFFF#17).getLsbD 16 = false ∧ (0#17).getLsbD 16 = false := by decide
theorem witness_DivisionMakesThirtyTwoPasses : (0x10000#17).getLsbD 16 = true := by decide
theorem witness_DivisionEqualsShiftRegister : (0x1FFFF#17).getLsbD 16 = true := by decide
/-- CR1 and CR12. -/
theorem witness_CheckIgnoresSyncBits :
    (0xFFFEA12345805E80 : Word).extractLsb' 0 48 = (0x0000A12345805E80 : Word).extractLsb' 0 48 := by decide
/-- CR19. -/
theorem witness_ZeroPayloadPasses :
    (0x18050#17).getLsbD 16 = true ∧ (0xFFFE000000000000 : Word).extractLsb' 0 48 = 0 := by decide
/-- CR1 and CR20. -/
theorem witness_CheckIsLinear :
    (0x18050#17).getLsbD 16 = true ∧ divides 0xFFFEA12345805E80 0x18050#17 = true ∧
    divides 0x0000000000018050 0x18050#17 = true := by decide +kernel
/-- CR1; the lowest and the highest bit of the payload. -/
theorem witness_SingleBitErrorIsFound :
    (0x18050#17).getLsbD 16 = true ∧ 0x18050#17 ≠ 0x10000#17 ∧
    divides 0xFFFEA12345805E80 0x18050#17 = true ∧ 0 < 48 ∧ 47 < 48 := by decide +kernel
/-- CR13. -/
theorem witness_TwoGigCheckNeedsZeroNibble : (0xFFFEA12345805E81 : Word).extractLsb' 0 4 ≠ 0#4 := by decide
theorem witness_CheckBitsAreUnique : (0x18050#17).getLsbD 16 = true := by decide
/-- A state with the sync pattern one shift away, meeting the invariant, and its step. -/
theorem witness_StepKeepsInvariant :
    ({ blk false 0 .lowPhaseA 0x7FFF000000000000 with input := [.dbit true] } : State).Inv ∧
    step { blk false 0 .lowPhaseA 0x7FFF000000000000 with input := [.dbit true] } =
      .next (blkOut false 0 .lowPhaseA 0 { frame := some (frameEvent 0xFFFE000000000001) }) :=
  ⟨by decide, rfl⟩
theorem witness_StepKeepsSpbAndConsumesOneEvent :
    step (fed [.sample 0x7F, .reset]) = .next (fed [.reset]) ∧ step State.reset = .next State.reset :=
  ⟨rfl, rfl⟩
/-- A sample, and a separate check with the forced polynomial's bit 16 set: the premise on selectors holds. -/
theorem witness_EveryAdmittedStepCompletes :
    4 ≤ (fed [.crc 0x30000#18 5]).spb ∧ (0x30000#18).getLsbD 17 = true ∧ (0x30000#18).getLsbD 16 = true ∧
    ∀ (sel : BitVec 18) (f : Word) (rest : List Event), (fed [.sample 0xFF]).input = .crc sel f :: rest →
      sel.getLsbD 17 = true → sel.getLsbD 16 = true :=
  ⟨by decide, by decide, by decide, fun _ _ _ h => by cases h⟩
/-- A sample's step with a chip, a data bit and a frame. -/
theorem witness_FrameImpliesBitImpliesChip :
    let s := { blk true 3 .highPhaseB 0x7FFF000000000000 with input := [.sample 0x01] };
    s.input = .sample 0x01 :: [] ∧
    step s = .next (blkOut true 4 .highPhaseA 0 ⟨some true, some true,
      some (frameEvent 0xFFFE000000000001), none, none⟩) := ⟨rfl, rfl⟩
/-- One state per clause: an edge and a same-level sample of each level, the least invalid byte, RESET, another
event, and no event. -/
theorem witness_OnlySamplesMoveRecoverer :
    step { blk true 5 .lowPhaseA 0 with input := [.sample 0x00] } = .next (blk false 1 .lowPhaseA 0) ∧
    step { blk false 5 .lowPhaseA 0 with input := [.sample 0x00] } = .next (blk false 6 .lowPhaseA 0) ∧
    step { blk false 5 .lowPhaseA 0 with input := [.sample 0x01] } = .next (blk true 1 .lowPhaseA 0) ∧
    step { blk true 5 .lowPhaseA 0 with input := [.sample 0x01] } = .next (blk true 6 .lowPhaseA 0) ∧
    step { blk true 5 .lowPhaseA 0 with input := [.sample 0x02] } = .next (blk true 5 .lowPhaseA 0) ∧
    step { blk true 5 .lowPhaseA 0 with input := [.reset] } = .next State.reset ∧
    step { blk true 5 .lowPhaseA 0 with input := [.chip false] } = .next (blk true 5 .lowPhaseA 0) ∧
    step (blk true 5 .lowPhaseA 0) = .next (blk true 5 .lowPhaseA 0) :=
  ⟨rfl, rfl, rfl, rfl, rfl, rfl, rfl, rfl⟩
theorem witness_OnlyBitsMoveRegister :
    (fed [.dbit true]).SyncFree ∧ step (fed [.dbit true]) = .next (blk false 0 .lowPhaseA 1) ∧
    (blk false 0 .lowPhaseA 1).sreg ≠ (fed [.dbit true]).sreg := ⟨by decide, rfl, by decide⟩
/-- Two states alike to stage 1 that differ in the other stages, and two alike in the decoder and the register
that differ in stage 1, each pair stepping on the same sample. -/
theorem witness_NoFeedbackBetweenStages :
    (let s := { blk true 3 .lowPhaseA 0 with input := [sampleOf true] };
     let t := { blk true 3 .highPhaseB 4 with input := [sampleOf true] };
     s.input = t.input ∧ AlikeToRecoverer s t ∧
     step s = .next (blkOut true 4 .highPhaseB 0 { chip := some true }) ∧
     step t = .next (blkOut true 4 .highPhaseA 9 { chip := some true, bit := some true })) ∧
    (let s := { blk true 3 .highPhaseB 0x7FFF000000000000 with input := [sampleOf true] };
     let t := { blk true 11 .highPhaseB 0x7FFF000000000000 with input := [sampleOf true] };
     let o : Outputs := { chip := some true, bit := some true, frame := some (frameEvent 0xFFFE000000000001) };
     s.input = t.input ∧ s.mstate = t.mstate ∧ s.sreg = t.sreg ∧
     step s = .next (blkOut true 4 .highPhaseA 0 o) ∧ step t = .next (blkOut true 12 .highPhaseA 0 o)) :=
  ⟨⟨rfl, ⟨rfl, rfl, rfl⟩, rfl, rfl⟩, ⟨rfl, rfl, rfl, rfl, rfl⟩⟩
/-- No idle time, the least admitted `SPB`. -/
theorem witness_TransmissionIsDelivered :
    let f : Word := 0xFFFEA12345805E80;
    let s := (fed (idleSamples 0 ++ frameSymbols 4 f ++ idleSamples (4 / 2) ++ [])).setSpb 4;
    4 ≤ s.spb ∧ s.lastSample = false ∧ s.samplesSinceEdge = 0 ∧ s.mstate = .lowPhaseA ∧ s.sreg = 0 ∧
    f.extractLsb' 48 16 = 0xFFFE#16 ∧
    s.input = idleSamples 0 ++ frameSymbols s.spb f ++ idleSamples (s.spb / 2) ++ [] :=
  ⟨by decide, rfl, rfl, rfl, rfl, by decide, rfl⟩
theorem witness_DecodeOfEncode : (Instr.crcForce 0x10000#17 0).WellFormed := by decide
theorem witness_EncodeOfDecode :
    decode (.frm 0xFFFEA12345805E80#64) = .ok (.frame 0xA#4 0x12345#20 0x80#8 0x5E80#16) := by decide
/-- A word that meets a row of SMPX; the two instructions need not be equal. -/
theorem witness_TableRowsAreDisjoint :
    (tableRow (.smpxB7 0#7)).format = (tableRow (.smpxB7 1#7)).format ∧
    (0x80 : BitVec 64) &&& (tableRow (.smpxB7 0#7)).mask = (tableRow (.smpxB7 0#7)).matchBits ∧
    (0x80 : BitVec 64) &&& (tableRow (.smpxB7 1#7)).mask = (tableRow (.smpxB7 1#7)).matchBits := by decide

end Sys2Proof.Machine.Tests
end

/-!
SUPPORT. What every step does to each stage, as a function of that stage's own state and the value handed
to it, and the three statements on scope (00_scope.md): what a step is, when it completes, and that the
stages do not feed back.
-/

namespace Sys2Proof.Machine

/-! ### The step -/

/-- Settles O1, by the branch of `step` for an admitted configuration and a word that decodes. -/
theorem stepRunsDecodedEvent : Obligations.StepRunsDecodedEvent := by
  intro s e rest i h4 hi hd
  have hs := s.admitted_iff.2 h4
  simp [step, hs, hi, hd, State.setInput]

section completes
variable {s : State} {es : List Event}

/-- A sample byte's step completes, whatever the byte: two are levels, the others are dropped (R71). -/
theorem step_sample_completes (h4 : 4 ≤ s.spb) {b : Byte} (hi : s.input = .sample b :: es) :
    ∃ t, step s = .next t := by
  by_cases h0 : b = 0#8
  · subst h0; exact ⟨_, step_sampleOf h4 (v := false) hi⟩
  by_cases h1 : b = 1#8
  · subst h1; exact ⟨_, step_sampleOf h4 (v := true) hi⟩
  exact ⟨_, step_invalid h4 h0 h1 hi⟩

/-- A sync test's step completes, whether or not the pattern stands in the register (R140). -/
theorem step_syncTest_completes (h4 : 4 ≤ s.spb) (hi : s.input = .syncTest :: es) :
    ∃ t, step s = .next t := by
  cases hm : syncMatch s.sreg with
  | false => exact ⟨_, step_syncTest_fails h4 hi hm⟩
  | true => exact ⟨_, step_syncTest h4 hi hm⟩

/-- A separate check's step completes unless its selector is the reserved one (R78, R174). -/
theorem step_crc_completes (h4 : 4 ≤ s.spb) {w : BitVec 18} {f : Word} (hi : s.input = .crc w f :: es)
    (hw : w.getLsbD 17 = true → w.getLsbD 16 = true) : ∃ t, step s = .next t := by
  rw [step_crc h4 hi, exec_decodeSel]
  cases h17 : w.getLsbD 17 with
  | false => exact ⟨_, rfl⟩
  | true => rw [hw h17]; exact ⟨_, rfl⟩

end completes

/-- Settles O48, by the kinds of event. -/
theorem everyAdmittedStepCompletes : Obligations.EveryAdmittedStepCompletes := by
  intro s h4 hsel
  cases hi : s.input with
  | nil => exact ⟨_, step_idle h4 hi⟩
  | cons e es =>
    cases e with
    | sample b => exact step_sample_completes h4 hi
    | reset => exact ⟨_, step_reset h4 hi⟩
    | crc w f => exact step_crc_completes h4 hi (hsel w f es hi)
    | chip c => exact ⟨_, step_chip h4 hi⟩
    | dbit d => exact ⟨_, step_dbit h4 hi⟩
    | syncTest => exact step_syncTest_completes h4 hi
    | brandOf w => exact ⟨_, step_brandOf h4 hi⟩

/-! ### Each stage as a function of its own state and the value handed to it -/

/-- The level a sample byte hands to the recoverer, if it is valid (R71). -/
def sampleLevel (b : Byte) : Option Bit :=
  if b = 0#8 then some false else if b = 1#8 then some true else none

/-- The recoverer's fields and chip after a level was handed to it, or none was (R100). -/
def recovererResult (last : Bit) (count spb : Nat) : Option Bit → Bit × Nat × Option Bit
  | none => (last, count, none)
  | some v =>
    if last = v then (v, count + 1, if chipDue spb (count + 1) then some v else none) else (v, 1, none)

/-- The decoder's state and data bit after a chip was handed to it, or none was (R120). -/
def decoderResult (m : MState) : Option Bit → MState × Option Bit
  | none => (m, none)
  | some c => (nextMState m c, pendingBit m)

/-- The framer's test on the register `r`: what it leaves there, and the frame (R140, R143). -/
def testResult (r : Word) : Word × Option FrameOut :=
  if syncMatch r then (0, some (frameEvent r)) else (r, none)

/-- The framer's register and frame after a data bit was handed to it, or none was (R140). -/
def framerResult (r : Word) : Option Bit → Word × Option FrameOut
  | none => (r, none)
  | some d => testResult (shifted r d)

/-- The recoverer's fields and chip after a step on these events. -/
def recovererStep (es : List Event) (last : Bit) (count spb : Nat) : Bit × Nat × Option Bit :=
  match es with
  | .reset :: _ => (false, 0, none)
  | .sample b :: _ => recovererResult last count spb (sampleLevel b)
  | _ => recovererResult last count spb none

/-- The decoder's state and data bit after a step on these events that put `chip` out. -/
def decoderStep (es : List Event) (m : MState) (chip : Option Bit) : MState × Option Bit :=
  match es with
  | .reset :: _ => (.lowPhaseA, none)
  | .chip c :: _ => decoderResult m (some c)
  | _ => decoderResult m chip

/-- The framer's register and frame after a step on these events that put the data bit `bit` out. -/
def framerStep (es : List Event) (r : Word) (bit : Option Bit) : Word × Option FrameOut :=
  match es with
  | .reset :: _ => (0, none)
  | .dbit d :: _ => framerResult r (some d)
  | .syncTest :: _ => testResult r
  | _ => framerResult r bit

@[simp] theorem sampleLevel_levelByte (v : Bit) : sampleLevel (levelByte v) = some v := by
  cases v <;> rfl

theorem sampleLevel_of_invalid {b : Byte} (h0 : b ≠ 0#8) (h1 : b ≠ 1#8) : sampleLevel b = none := by
  simp [sampleLevel, h0, h1]

/-- Only a register that passed the sync test gives a frame, and the frame's outputs follow from it (R192). -/
theorem eq_frameEvent_of_testResult {r : Word} {e : FrameOut} (h : (testResult r).2 = some e) :
    e = frameEvent r := by
  unfold testResult at h
  split at h
  · exact (Option.some.inj h).symm
  · cases h

/-- Whatever frame a step gives, its outputs are the frame event of one value. -/
theorem eq_frameEvent_of_framerStep {es : List Event} {r : Word} {bit : Option Bit} {e : FrameOut}
    (h : (framerStep es r bit).2 = some e) : ∃ f, e = frameEvent f := by
  unfold framerStep at h
  split at h
  · cases h
  · exact ⟨_, eq_frameEvent_of_testResult h⟩
  · exact ⟨_, eq_frameEvent_of_testResult h⟩
  · cases bit with
    | none => cases h
    | some d => exact ⟨_, eq_frameEvent_of_testResult h⟩

/-! ### The shared operations, seen by each stage -/

section stages
variable (s : State)

/-- The recoverer's share of RECOVER. -/
theorem State.recover_recoverer (v : Bit) (hc : s.out.chip = none) :
    ((s.recover v).lastSample, (s.recover v).samplesSinceEdge, (s.recover v).out.chip) =
      recovererResult s.lastSample s.samplesSinceEdge s.spb (some v) := by
  rcases s.recover_cases v with ⟨hv, h⟩ | ⟨hv, hd, h⟩ | ⟨hv, hd, h⟩
  · simp [h, recovererResult, hv, hc]
  · simp [h, recovererResult, hv, hd, hc]
  · simp [h, recovererResult, hv, hd]

/-- The decoder's share of DECODE_CHIP. -/
theorem State.decodeChip_decoder (c : Bit) (hb : s.out.bit = none) :
    ((s.decodeChip c).mstate, (s.decodeChip c).out.bit) = decoderResult s.mstate (some c) := by
  rcases s.decodeChip_cases c with ⟨hp, h⟩ | ⟨d, hp, h⟩
  · simp [h, decoderResult, hp, hb]
  · simp [h, decoderResult, hp]

/-- The decoder's share of RECOVER: it reads the chip alone. -/
theorem State.recover_decoder (v : Bit) (hc : s.out.chip = none) (hb : s.out.bit = none) :
    ((s.recover v).mstate, (s.recover v).out.bit) =
      decoderResult s.mstate (s.recover v).out.chip := by
  rcases s.recover_cases v with ⟨_, h⟩ | ⟨_, _, h⟩ | ⟨_, _, h⟩
  · simp [h, decoderResult, hc, hb]
  · simp [h, decoderResult, hc, hb]
  · rw [h, State.decodeChip_decoder _ v (by simpa using hb)]
    simp

/-- The framer's share of SHIFT_IN. -/
theorem State.shiftIn_framer (d : Bit) (hf : s.out.frame = none) :
    ((s.shiftIn d).sreg, (s.shiftIn d).out.frame) = framerResult s.sreg (some d) := by
  rcases s.shiftIn_cases d with ⟨hm, h⟩ | ⟨hm, h⟩
  · simp [h, framerResult, testResult, hm]
  · simp [h, framerResult, testResult, hm, hf]

/-- The framer's share of DECODE_CHIP: it reads the data bit alone. -/
theorem State.decodeChip_framer (c : Bit) (hb : s.out.bit = none) (hf : s.out.frame = none) :
    ((s.decodeChip c).sreg, (s.decodeChip c).out.frame) =
      framerResult s.sreg (s.decodeChip c).out.bit := by
  rcases s.decodeChip_cases c with ⟨_, h⟩ | ⟨d, _, h⟩
  · simp [h, framerResult, hb, hf]
  · rw [h, State.shiftIn_framer _ d (by simpa using hf)]
    simp

/-- The framer's share of RECOVER: it reads the data bit alone. -/
theorem State.recover_framer (v : Bit) (hb : s.out.bit = none) (hf : s.out.frame = none) :
    ((s.recover v).sreg, (s.recover v).out.frame) = framerResult s.sreg (s.recover v).out.bit := by
  rcases s.recover_cases v with ⟨_, h⟩ | ⟨_, _, h⟩ | ⟨_, _, h⟩
  · simp [h, framerResult, hb, hf]
  · simp [h, framerResult, hb, hf]
  · rw [h, State.decodeChip_framer _ v (by simpa using hb) (by simpa using hf)]
    simp

end stages

/-! ### Every step, seen by each stage -/

section step
variable {s t : State}

/-- No step writes `SPB` (R27). -/
theorem spb_step (h : step s = .next t) : t.spb = s.spb := by
  cases stepCase_of_step h with
  | idle _ ht | valid _ _ _ ht | invalid _ _ _ _ _ ht | reset _ _ ht | chip _ _ _ ht | dbit _ _ _ ht
  | syncTest _ _ _ ht | syncTestFails _ _ _ ht | brandOf _ _ _ ht | crc _ _ _ _ _ ht => simp [ht]

/-- Stage 1 after any step, from its own fields, `SPB` and the input. -/
theorem recoverer_step (h : step s = .next t) :
    (t.lastSample, t.samplesSinceEdge, t.out.chip) =
      recovererStep s.input s.lastSample s.samplesSinceEdge s.spb := by
  cases stepCase_of_step h with
  | valid v es hi ht =>
    rw [ht, State.recover_recoverer _ v rfl, hi]
    simp [recovererStep, sampleOf]
  | invalid b es h0 h1 hi ht =>
    simp [ht, hi, recovererStep, recovererResult, sampleLevel_of_invalid h0 h1]
  | idle hi ht | reset _ hi ht | chip _ _ hi ht | dbit _ _ hi ht | syncTest _ hi _ ht
  | syncTestFails _ hi _ ht | brandOf _ _ hi ht | crc _ _ _ _ hi ht =>
    simp [ht, hi, recovererStep, recovererResult]

/-- Stage 2 after any step, from its own state, the chip and the input. -/
theorem decoder_step (h : step s = .next t) :
    (t.mstate, t.out.bit) = decoderStep s.input s.mstate t.out.chip := by
  cases stepCase_of_step h with
  | valid v es hi ht => rw [ht, State.recover_decoder _ v rfl rfl, hi]; rfl
  | chip c es hi ht => rw [ht, State.decodeChip_decoder _ c rfl, hi]; rfl
  | idle hi ht | invalid _ _ _ _ hi ht | reset _ hi ht | dbit _ _ hi ht | syncTest _ hi _ ht
  | syncTestFails _ hi _ ht | brandOf _ _ hi ht | crc _ _ _ _ hi ht =>
    simp [ht, hi, decoderStep, decoderResult]

/-- Stages 3 and 4 after any step, from the register, the data bit and the input. -/
theorem framer_step (h : step s = .next t) :
    (t.sreg, t.out.frame) = framerStep s.input s.sreg t.out.bit := by
  cases stepCase_of_step h with
  | valid v es hi ht => rw [ht, State.recover_framer _ v rfl rfl, hi]; rfl
  | chip c es hi ht => rw [ht, State.decodeChip_framer _ c rfl rfl, hi]; rfl
  | dbit d es hi ht => rw [ht, State.shiftIn_framer _ d rfl, hi]; rfl
  | syncTest _ hi hm ht | syncTestFails _ hi hm ht => simp [ht, hi, framerStep, testResult, hm]
  | idle hi ht | invalid _ _ _ _ hi ht | reset _ hi ht | brandOf _ _ hi ht | crc _ _ _ _ hi ht =>
    simp [ht, hi, framerStep, framerResult]

/-- Stage 4's answer follows from the frame (R192). -/
theorem frame_step {e : FrameOut} (h : step s = .next t) (he : t.out.frame = some e) :
    e = frameEvent e.frame := by
  obtain ⟨f, rfl⟩ := eq_frameEvent_of_framerStep ((congrArg Prod.snd (framer_step h)).symm.trans he)
  rfl

end step

/-- Settles O52: each stage is a function of its own state and the value handed to it. -/
theorem noFeedbackBetweenStages : Obligations.NoFeedbackBetweenStages := by
  intro s t s' t' hi hs ht
  refine ⟨fun ⟨hlast, hcount, hspb⟩ => ?_, fun hm hchip => ?_, fun hr hbit => ?_,
    fun e e' he he' hf => ?_⟩
  · have alike := recoverer_step hs
    rw [hi, hlast, hcount, hspb, ← recoverer_step ht] at alike
    simp only [Prod.mk.injEq] at alike
    obtain ⟨hlast', hcount', hchip'⟩ := alike
    exact ⟨⟨hlast', hcount', by rw [spb_step hs, spb_step ht, hspb]⟩, hchip'⟩
  · have alike := decoder_step hs
    rw [hi, hm, hchip, ← decoder_step ht] at alike
    exact Prod.mk.inj alike
  · have alike := framer_step hs
    rw [hi, hr, hbit, ← framer_step ht] at alike
    obtain ⟨hreg, hframe⟩ := Prod.mk.inj alike
    exact ⟨hreg, by rw [hframe]⟩
  · rw [frame_step hs he, frame_step ht he', hf]

end Sys2Proof.Machine

/-!
SUPPORT. The statements on the state between steps (10_state.md): that the counter matters modulo `SPB` only,
that the invariant holds at reset and every step keeps it, and what moves each field.
-/

namespace Sys2Proof.Machine

/-! ### Only the counter's residue matters -/

section samePhase
variable {s t : State}

/-- `SamePhase` through the model's own write of the recoverer's fields. -/
theorem samePhase_iff : SamePhase s t ↔
    ∃ n, t = s.setRecoverer s.lastSample n ∧ s.samplesSinceEdge % s.spb = n % s.spb := by
  constructor
  · rintro ⟨ht, hmod⟩
    exact ⟨_, ht, hmod⟩
  · rintro ⟨n, rfl, hmod⟩
    exact ⟨rfl, hmod⟩

/-- Counters equal modulo `SPB`, written beside one level, make states of the same phase. -/
theorem samePhase_setRecoverer (s : State) (v : Bit) {m n : Nat} (h : m % s.spb = n % s.spb) :
    SamePhase (s.setRecoverer v m) (s.setRecoverer v n) := ⟨rfl, h⟩

/-- An operation that neither reads nor writes the recoverer's fields, nor writes `SPB`, keeps the phase. -/
theorem SamePhase.map {f : State → State} (h : SamePhase s t)
    (hcomm : ∀ (s : State) v n, f (s.setRecoverer v n) = (f s).setRecoverer v n)
    (hspb : ∀ s : State, (f s).spb = s.spb) : SamePhase (f s) (f t) := by
  obtain ⟨n, rfl, hmod⟩ := samePhase_iff.1 h
  have hs : f s = (f s).setRecoverer s.lastSample s.samplesSinceEdge := hcomm s _ _
  rw [hcomm, hs]
  exact samePhase_setRecoverer (f s) _ (by rwa [hspb])

theorem SamePhase.lastSample_eq (h : SamePhase s t) : t.lastSample = s.lastSample := by rw [h.1]
theorem SamePhase.sreg_eq (h : SamePhase s t) : t.sreg = s.sreg := by rw [h.1]
theorem SamePhase.spb_eq (h : SamePhase s t) : t.spb = s.spb := by rw [h.1]
theorem SamePhase.input_eq (h : SamePhase s t) : t.input = s.input := by rw [h.1]

/-- SHIFT_IN neither reads nor writes the recoverer's fields (R140). -/
theorem State.shiftIn_setRecoverer (s : State) (d v : Bit) (n : Nat) :
    (s.setRecoverer v n).shiftIn d = (s.shiftIn d).setRecoverer v n := by
  rcases s.shiftIn_cases d with ⟨hm, h⟩ | ⟨hm, h⟩
  · rw [h, State.shiftIn_of_sync _ _ (by simpa using hm)]; rfl
  · rw [h, State.shiftIn_of_noSync _ _ (by simpa using hm)]; rfl

/-- DECODE_CHIP neither reads nor writes the recoverer's fields (R120). -/
theorem State.decodeChip_setRecoverer (s : State) (c v : Bit) (n : Nat) :
    (s.setRecoverer v n).decodeChip c = (s.decodeChip c).setRecoverer v n := by
  rcases s.decodeChip_cases c with ⟨hp, h⟩ | ⟨d, hp, h⟩
  · rw [h, State.decodeChip_silent _ _ (by simpa using hp)]; rfl
  · rw [h, State.decodeChip_emitting _ _ (by simpa using hp), ← State.shiftIn_setRecoverer]; rfl

/-- Taking an event off the queue, with the outputs deasserted, keeps the phase. -/
theorem SamePhase.consume (h : SamePhase s t) (es : List Event) :
    SamePhase (s.setInput es).quiet (t.setInput es).quiet :=
  h.map (f := fun s => (s.setInput es).quiet) (fun _ _ _ => rfl) (fun _ => rfl)

theorem SamePhase.shiftIn (h : SamePhase s t) (d : Bit) : SamePhase (s.shiftIn d) (t.shiftIn d) :=
  h.map (·.shiftIn_setRecoverer d) (·.shiftIn_spb d)

theorem SamePhase.decodeChip (h : SamePhase s t) (c : Bit) :
    SamePhase (s.decodeChip c) (t.decodeChip c) :=
  h.map (·.decodeChip_setRecoverer c) (·.decodeChip_spb c)

theorem SamePhase.putChip (h : SamePhase s t) (c : Bit) : SamePhase (s.putChip c) (t.putChip c) :=
  h.map (f := (·.putChip c)) (fun _ _ _ => rfl) (fun _ => rfl)

/-- RECOVER reads the counter through its residue only, and advances both counters alike (R22, R100). -/
theorem SamePhase.recover (h : SamePhase s t) (v : Bit) : SamePhase (s.recover v) (t.recover v) := by
  obtain ⟨n, ht, hmod⟩ := samePhase_iff.1 h
  have hnext : (s.samplesSinceEdge + 1) % s.spb = (n + 1) % s.spb := Nat.ModEq.add_right 1 hmod
  have hdue : chipDue t.spb (t.samplesSinceEdge + 1) = chipDue s.spb (s.samplesSinceEdge + 1) := by
    simp [ht, chipDue, hnext]
  have hlast : t.lastSample = s.lastSample := h.lastSample_eq
  rcases s.recover_cases v with ⟨hv, hs⟩ | ⟨hv, hd, hs⟩ | ⟨hv, hd, hs⟩
  · rw [hs, t.recover_edge v (hlast ▸ hv), ht]
    exact samePhase_setRecoverer s v rfl
  · rw [hs, t.recover_silent v (hlast.trans hv) (hdue.trans hd), ht]
    exact samePhase_setRecoverer s v hnext
  · rw [hs, t.recover_chip v (hlast.trans hv) (hdue.trans hd), ht]
    exact ((samePhase_setRecoverer s v hnext).putChip v).decodeChip v

/-- RESET leaves states of the same phase equal: it writes both counters. -/
theorem SamePhase.resetBlock (h : SamePhase s t) : SamePhase s.resetBlock t.resetBlock := by
  obtain ⟨n, rfl, -⟩ := samePhase_iff.1 h
  exact ⟨rfl, rfl⟩

/-- A separate check's answer follows from its event alone: no field of the state is read (R160). -/
theorem step_crc_of_step {w : BitVec 18} {f : Word} {es : List Event} {s' : State}
    (h : step s = .next s') (hi : s.input = .crc w f :: es) :
    ∃ ok, s' = (s.setInput es).quiet.putCrc ok ∧
      ∀ t : State, 4 ≤ t.spb → t.input = .crc w f :: es →
        step t = .next ((t.setInput es).quiet.putCrc ok) := by
  rw [step_crc (spb_of_step h) hi, exec_decodeSel] at h
  cases h17 : w.getLsbD 17 with
  | false =>
    rw [h17] at h
    cases h
    exact ⟨_, rfl, fun t h4 ht => by rw [step_crc h4 ht, exec_decodeSel, h17]; rfl⟩
  | true =>
    cases h16 : w.getLsbD 16 with
    | false => rw [h17, h16] at h; cases h
    | true =>
      rw [h17, h16] at h
      cases h
      exact ⟨_, rfl, fun t h4 ht => by rw [step_crc h4 ht, exec_decodeSel, h17, h16]; rfl⟩

end samePhase

/-- Settles O13: every operation a step can run keeps the phase, and the events select the same one. -/
theorem counterResidueSuffices : Obligations.CounterResidueSuffices := by
  intro s t s' hphase h
  have h4 : 4 ≤ t.spb := hphase.spb_eq ▸ spb_of_step h
  have hin {es : List Event} (hi : s.input = es) : t.input = es := hphase.input_eq.trans hi
  cases stepCase_of_step h with
  | idle hi ht => exact ⟨_, step_idle h4 (hin hi), ht ▸ hphase.map (fun _ _ _ => rfl) (fun _ => rfl)⟩
  | valid v es hi ht => exact ⟨_, step_sampleOf h4 (hin hi), ht ▸ (hphase.consume es).recover v⟩
  | invalid b es h0 h1 hi ht =>
    exact ⟨_, step_invalid h4 h0 h1 (hin hi), ht ▸ hphase.consume es⟩
  | reset es hi ht => exact ⟨_, step_reset h4 (hin hi), ht ▸ (hphase.consume es).resetBlock⟩
  | chip c es hi ht => exact ⟨_, step_chip h4 (hin hi), ht ▸ (hphase.consume es).decodeChip c⟩
  | dbit d es hi ht => exact ⟨_, step_dbit h4 (hin hi), ht ▸ (hphase.consume es).shiftIn d⟩
  | syncTest es hi hm ht =>
    exact ⟨_, step_syncTest h4 (hin hi) (hphase.sreg_eq ▸ hm),
      ht ▸ hphase.map (f := fun s => (s.setInput es).quiet.deliver s.sreg) (fun _ _ _ => rfl)
        (fun _ => rfl)⟩
  | syncTestFails es hi hm ht =>
    exact ⟨_, step_syncTest_fails h4 (hin hi) (hphase.sreg_eq ▸ hm), ht ▸ hphase.consume es⟩
  | brandOf w es hi ht =>
    exact ⟨_, step_brandOf h4 (hin hi),
      ht ▸ (hphase.consume es).map (f := (·.putSelection (brandTable w))) (fun _ _ _ => rfl)
        (fun _ => rfl)⟩
  | crc w f _ es hi =>
    obtain ⟨ok, rfl, hstep⟩ := step_crc_of_step h hi
    exact ⟨_, hstep t h4 (hin hi),
      (hphase.consume es).map (f := (·.putCrc ok)) (fun _ _ _ => rfl) (fun _ => rfl)⟩

/-! ### The invariant -/

/-- Settles O45: the register and the counter are 0, the level is 0, and the default `SPB` is admitted. -/
theorem resetStateMeetsInvariant : Obligations.ResetStateMeetsInvariant :=
  ⟨by decide, fun _ => rfl, by decide⟩

/-- The sync test leaves no sync pattern: a register that holds it is zeroed (R140, R24). -/
theorem syncOf_testResult (r : Word) : syncOf (testResult r).1 ≠ 0xFFFE#16 := by
  unfold testResult
  split
  · show syncOf 0 ≠ 0xFFFE#16
    decide
  · next hm => exact fun hr => hm ((syncMatch_iff r).2 hr)

/-- The framer's share of a step leaves no sync pattern where none was. -/
theorem syncOf_framerStep (es : List Event) {r : Word} (bit : Option Bit) (h : syncOf r ≠ 0xFFFE#16) :
    syncOf (framerStep es r bit).1 ≠ 0xFFFE#16 := by
  unfold framerStep
  split
  · decide
  · exact syncOf_testResult _
  · exact syncOf_testResult _
  · cases bit with
    | none => exact h
    | some d => exact syncOf_testResult _

/-- A valid sample leaves a counter above 0, and nothing else moves it (R22). -/
theorem counterFresh_recovererResult {last : Bit} {count : Nat} (spb : Nat) (v : Option Bit)
    (h : count = 0 → last = false) :
    (recovererResult last count spb v).2.1 = 0 → (recovererResult last count spb v).1 = false := by
  cases v with
  | none => exact h
  | some v =>
    by_cases hv : last = v
    · simp [recovererResult, hv]
    · simp [recovererResult, hv]

/-- RESET's 0 stands beside the level 0 (R230). -/
theorem counterFresh_recovererStep (es : List Event) {last : Bit} {count : Nat} (spb : Nat)
    (h : count = 0 → last = false) :
    (recovererStep es last count spb).2.1 = 0 → (recovererStep es last count spb).1 = false := by
  unfold recovererStep
  split
  · exact fun _ => rfl
  · exact counterFresh_recovererResult spb _ h
  · exact counterFresh_recovererResult spb _ h

/-- Settles O46: each clause is kept by the stage that owns its fields. -/
theorem stepKeepsInvariant : Obligations.StepKeepsInvariant := by
  rintro s t ⟨hsync, hfresh, hspb⟩ h
  refine ⟨?_, ?_, ?_⟩
  · have hreg := syncOf_framerStep s.input t.out.bit hsync
    rwa [← framer_step h] at hreg
  · have hcount := counterFresh_recovererStep s.input s.spb hfresh
    rwa [← recoverer_step h] at hcount
  · rwa [spb_step h]

/-! ### What moves each field -/

/-- Every step takes the next event off the queue, and no other (R51). -/
theorem input_step {s t : State} (h : step s = .next t) : t.input = s.input.tail := by
  cases stepCase_of_step h with
  | idle hi ht | valid _ _ hi ht | invalid _ _ _ _ hi ht | reset _ hi ht | chip _ _ hi ht | dbit _ _ hi ht
  | syncTest _ hi _ ht | syncTestFails _ hi _ ht | brandOf _ _ hi ht | crc _ _ _ _ hi ht => simp [ht, hi]

/-- Settles O47, from the two lemmas on what no step writes and what every step takes. -/
theorem stepKeepsSpbAndConsumesOneEvent : Obligations.StepKeepsSpbAndConsumesOneEvent :=
  fun _ _ h => ⟨spb_step h, input_step h⟩

/-- Settles O50, by the kinds of event: RECOVER and RESET alone write the recoverer's fields. -/
theorem onlySamplesMoveRecoverer : Obligations.OnlySamplesMoveRecoverer := by
  intro s t h
  cases stepCase_of_step h with
  | valid v es hi ht =>
    have hcount : t.samplesSinceEdge = if s.lastSample = v then s.samplesSinceEdge + 1 else 1 := by
      rw [ht, State.recover_samplesSinceEdge]
      rfl
    rw [hi]
    cases v with
    | false => exact And.intro (by simp [ht]) hcount
    | true => exact And.intro (by simp [ht]) hcount
  | invalid b es h0 h1 hi ht => simp [hi, ht, h0, h1]
  | idle hi ht | reset _ hi ht | chip _ _ hi ht | dbit _ _ hi ht | syncTest _ hi _ ht
  | syncTestFails _ hi _ ht | brandOf _ _ hi ht | crc _ _ _ _ hi ht => simp [hi, ht]

/-- The sync test leaves a register without the pattern as it is (R140). -/
theorem testResult_of_syncFree {r : Word} (h : syncOf r ≠ 0xFFFE#16) : testResult r = (r, none) :=
  if_neg fun hm => h ((syncMatch_iff r).1 hm)

/-- Settles O51: without a data bit, out or handed in, and without RESET, the framer's share of a step is at
most the sync test, which a register without the pattern fails. -/
theorem onlyBitsMoveRegister : Obligations.OnlyBitsMoveRegister := by
  intro s t hsync h hne
  by_contra hno
  obtain ⟨hbit, hdbit, hreset⟩ : t.out.bit = none ∧ (¬ ∃ d es, s.input = .dbit d :: es) ∧
      ¬ ∃ es, s.input = .reset :: es := by simpa using hno
  have hreg : t.sreg = (framerStep s.input s.sreg none).1 := by rw [← hbit, ← framer_step h]
  refine hne (hreg.trans ?_)
  unfold framerStep
  split
  · next hi => exact absurd ⟨_, hi⟩ hreset
  · next hi => exact absurd ⟨_, _, hi⟩ hdbit
  · rw [testResult_of_syncFree hsync]
  · rfl

end Sys2Proof.Machine

/-!
SUPPORT. The statements on the encodings (30_encoding.md): decoder and encoder are inverse to each other, a
word that decodes meets the one opcode-table row it can meet, and what a row answers when it is run alone.
A format of at most eight bits is checked word by word; `FRM` and `SEL` are taken apart into fields.
-/

namespace Sys2Proof.Machine

/-! ### Words put together from a head of fixed bits and the bits below it -/

section fields
variable {k n w : Nat}

/-- A word that shows the head `h` is `h` put before the bits below it. -/
theorem append_low_of_high {h : BitVec k} {b : BitVec (k + n)} (hb : b.extractLsb' n k = h) :
    h ++ b.extractLsb' 0 n = b := by
  rw [← hb, BitVec.extractLsb'_append_extractLsb']

/-- A bit above the operand is the head's. -/
theorem getLsbD_append_high (h : BitVec k) (x : BitVec n) (j : Nat) :
    (h ++ x).getLsbD (n + j) = h.getLsbD j := by
  simp [BitVec.getLsbD_append]

/-- A field of one bit. -/
theorem extractLsb'_one (b : BitVec w) (j : Nat) : b.extractLsb' j 1 = BitVec.ofBool (b.getLsbD j) := by
  ext i hi
  obtain rfl : i = 0 := by omega
  simp

/-- A field of two bits. -/
theorem extractLsb'_two (b : BitVec w) (j : Nat) :
    b.extractLsb' j 2 = BitVec.ofBool (b.getLsbD (j + 1)) ++ BitVec.ofBool (b.getLsbD j) := by
  rw [← extractLsb'_one, ← extractLsb'_one, BitVec.extractLsb'_append_extractLsb'_eq_extractLsb' rfl]

end fields

/-! ### Format FRM -/

section frameWord
variable (sof : BitVec 4) (serial : BitVec 20) (ty : BitVec 8) (crc : BitVec 16)

@[simp] theorem syncOf_frameWord : syncOf (frameWord sof serial ty crc) = 0xFFFE#16 := by
  simp only [syncOf, frameWord]
  repeat rw [BitVec.extractLsb'_append_eq_of_le (by decide)]
  exact BitVec.extractLsb'_eq_self

@[simp] theorem sofOf_frameWord : sofOf (frameWord sof serial ty crc) = sof := by
  simp only [sofOf, frameWord]
  repeat rw [BitVec.extractLsb'_append_eq_of_le (by decide)]
  exact BitVec.extractLsb'_append_eq_right

@[simp] theorem serialOf_frameWord : serialOf (frameWord sof serial ty crc) = serial := by
  simp only [serialOf, frameWord]
  repeat rw [BitVec.extractLsb'_append_eq_of_le (by decide)]
  exact BitVec.extractLsb'_append_eq_right

@[simp] theorem typeOf_frameWord : typeOf (frameWord sof serial ty crc) = ty := by
  simp only [typeOf, frameWord]
  rw [BitVec.extractLsb'_append_eq_of_le (by decide)]
  exact BitVec.extractLsb'_append_eq_right

@[simp] theorem crcOf_frameWord : crcOf (frameWord sof serial ty crc) = crc :=
  BitVec.extractLsb'_append_eq_right

end frameWord

/-- A value with the sync pattern decodes to its frame, field by field (R74, R75). -/
theorem decodeFrm_of_sync {f : Word} (h : syncOf f = 0xFFFE#16) :
    decodeFrm f = .ok (.frame (sofOf f) (serialOf f) (typeOf f) (crcOf f)) := if_pos h

/-- A value without it selects no row (R75). -/
theorem decodeFrm_of_noSync {f : Word} (h : syncOf f ≠ 0xFFFE#16) : decodeFrm f = .error .noSync :=
  if_neg h

/-- An `FRM` word that decodes is its frame's fields put together (R74). -/
theorem encode_of_decodeFrm {f : Word} {i : Instr} (h : decodeFrm f = .ok i) : encode i = .frm f := by
  by_cases hs : syncOf f = 0xFFFE#16
  · rw [decodeFrm_of_sync hs] at h
    cases h
    exact congrArg PortWord.frm (frameWord_fields hs)
  · rw [decodeFrm_of_noSync hs] at h
    cases h

/-! ### Format SEL -/

section sel
variable (f : Word)

/-- `force_en` = 0 selects `CRC.AUTO`, whatever `force_poly` (R78). -/
theorem decodeSel_autoWord (x : BitVec 17) : decodeSel (0b0#1 ++ x) f = .crcAuto x f := by
  have h17 : (0b0#1 ++ x).getLsbD 17 = false := getLsbD_append_high _ x 0
  have hx : (0b0#1 ++ x).extractLsb' 0 17 = x := BitVec.extractLsb'_append_eq_right
  simp only [decodeSel, h17, hx, Bool.false_eq_true, if_false]

/-- `force_en` = 1 selects `CRC.FORCE`, or the reserved row where bit 16 of the polynomial is clear (R78). -/
theorem decodeSel_forceWord (p : Poly) :
    decodeSel (0b1#1 ++ p) f =
      if polyAdmitted p then .crcForce p f else .selReserved (p.extractLsb' 0 16) f := by
  have h17 : (0b1#1 ++ p).getLsbD 17 = true := getLsbD_append_high _ p 0
  have h16 : (0b1#1 ++ p).getLsbD 16 = polyAdmitted p := BitVec.getLsbD_append
  have hp : (0b1#1 ++ p).extractLsb' 0 17 = p := BitVec.extractLsb'_append_eq_right
  have hx : (0b1#1 ++ p).extractLsb' 0 16 = p.extractLsb' 0 16 :=
    BitVec.extractLsb'_append_eq_of_add_le (by decide)
  simp only [decodeSel, h17, h16, hp, hx, if_true]

/-- `force_en` = 1 over a clear bit 16 selects the reserved row (R78, R174). -/
theorem decodeSel_of_reserved {w : BitVec 18} (h17 : w.getLsbD 17 = true)
    (h16 : w.getLsbD 16 = false) : decodeSel w f = .selReserved (w.extractLsb' 0 16) f := by
  simp only [decodeSel, h17, h16, Bool.false_eq_true, if_true, if_false]

/-- The word of the reserved row selects it (R78). -/
theorem decodeSel_reservedWord (x : BitVec 16) : decodeSel (0b10#2 ++ x) f = .selReserved x f := by
  rw [decodeSel_of_reserved f (getLsbD_append_high _ x 1) (getLsbD_append_high _ x 0),
    BitVec.extractLsb'_append_eq_right]

/-- A `SEL` word is the word of what it selects (R78). -/
theorem encode_decodeSel (w : BitVec 18) : encode (decodeSel w f) = .sel w f := by
  unfold decodeSel
  split
  next h17 =>
    split
    next h16 =>
      have head : w.extractLsb' 17 1 = 0b1#1 := by rw [extractLsb'_one, h17]; rfl
      exact congrArg (PortWord.sel · f) (append_low_of_high head)
    next h16 =>
      have head : w.extractLsb' 16 2 = 0b10#2 := by
        rw [extractLsb'_two, h17, Bool.eq_false_of_not_eq_true h16]; rfl
      exact congrArg (PortWord.sel · f) (append_low_of_high head)
  next h17 =>
    have head : w.extractLsb' 17 1 = 0b0#1 := by
      rw [extractLsb'_one, Bool.eq_false_of_not_eq_true h17]; rfl
    exact congrArg (PortWord.sel · f) (append_low_of_high head)

end sel

/-! ### Decoder and encoder -/

/-- An instruction whose word decodes to it is well formed: the word of an ill-formed polynomial decodes to
the reserved row. -/
theorem wellFormed_of_decode_encode {i : Instr} (h : decode (encode i) = .ok i) : i.WellFormed := by
  cases i with
  | crcForce p f =>
    by_contra hp
    have hd : decodeSel (0b1#1 ++ p) f = .crcForce p f := Except.ok.inj h
    rw [decodeSel_forceWord, if_neg (show ¬ polyAdmitted p = true from hp)] at hd
    cases hd
  | _ => rfl

/-- A word that decodes is the word of its instruction, format by format. -/
theorem encode_of_decode {w : PortWord} {i : Instr} (h : decode w = .ok i) : encode i = w := by
  cases w with
  | frm f => exact encode_of_decodeFrm h
  | smp b => cases h; revert b; decide
  | man w => cases h; revert w; decide
  | dbit w => cases h; revert w; decide
  | sof w => cases h; revert w; decide
  | sel w f => cases h; exact encode_decodeSel f w
  | reset => cases h; rfl

/-- The word of every well-formed instruction meets its row of the opcode table. -/
theorem meetsTable : ∀ i : Instr, Laws.MeetsTable.Statement i
  | .smp0 => Laws.MeetsTable.smp0
  | .smp1 => Laws.MeetsTable.smp1
  | .smpxB7 x => Laws.MeetsTable.smpxB7 x
  | .smpxB6 x => Laws.MeetsTable.smpxB6 x
  | .smpxB5 x => Laws.MeetsTable.smpxB5 x
  | .smpxB4 x => Laws.MeetsTable.smpxB4 x
  | .smpxB3 x => Laws.MeetsTable.smpxB3 x
  | .smpxB2 x => Laws.MeetsTable.smpxB2 x
  | .smpxB1 x => Laws.MeetsTable.smpxB1 x
  | .manLowPhaseA0 => Laws.MeetsTable.manLowPhaseA0
  | .manLowPhaseA1 => Laws.MeetsTable.manLowPhaseA1
  | .manLowPhaseB0 => Laws.MeetsTable.manLowPhaseB0
  | .manLowPhaseB1 => Laws.MeetsTable.manLowPhaseB1
  | .manHighPhaseA0 => Laws.MeetsTable.manHighPhaseA0
  | .manHighPhaseA1 => Laws.MeetsTable.manHighPhaseA1
  | .manHighPhaseB0 => Laws.MeetsTable.manHighPhaseB0
  | .manHighPhaseB1 => Laws.MeetsTable.manHighPhaseB1
  | .bit0 => Laws.MeetsTable.bit0
  | .bit1 => Laws.MeetsTable.bit1
  | .frame sof serial ty crc => Laws.MeetsTable.frame sof serial ty crc
  | .polyOtherSof0 => Laws.MeetsTable.polyOtherSof0
  | .polyOtherSof1 => Laws.MeetsTable.polyOtherSof1
  | .poly2gigSof2 => Laws.MeetsTable.poly2gigSof2
  | .poly2gigSof3 => Laws.MeetsTable.poly2gigSof3
  | .poly2gigSof4 => Laws.MeetsTable.poly2gigSof4
  | .polyOtherSof5 => Laws.MeetsTable.polyOtherSof5
  | .polyOtherSof6 => Laws.MeetsTable.polyOtherSof6
  | .poly2gigSof7 => Laws.MeetsTable.poly2gigSof7
  | .polyHoneywellSof8 => Laws.MeetsTable.polyHoneywellSof8
  | .poly2gigSof9 => Laws.MeetsTable.poly2gigSof9
  | .poly2gigSofA => Laws.MeetsTable.poly2gigSofA
  | .poly2gigSofB => Laws.MeetsTable.poly2gigSofB
  | .poly2gigSofC => Laws.MeetsTable.poly2gigSofC
  | .polyVivintSofD => Laws.MeetsTable.polyVivintSofD
  | .polyVivintSofE => Laws.MeetsTable.polyVivintSofE
  | .poly2gigSofF => Laws.MeetsTable.poly2gigSofF
  | .crcAuto x f => Laws.MeetsTable.crcAuto x f
  | .crcForce p f => Laws.MeetsTable.crcForce p f
  | .selReserved x f => Laws.MeetsTable.selReserved x f
  | .reset => Laws.MeetsTable.reset

/-- Settles O55, by the rows: one with operands by the decoder of its format, one without by its one word. -/
theorem decodeOfEncode : Obligations.DecodeOfEncode := by
  intro i hwf
  cases i with
  | smpxB7 x | smpxB6 x | smpxB5 x | smpxB4 x | smpxB3 x | smpxB2 x | smpxB1 x =>
    clear hwf; revert x; decide
  | frame sof serial ty crc =>
    show decodeFrm (frameWord sof serial ty crc) = _
    rw [decodeFrm_of_sync (syncOf_frameWord sof serial ty crc)]
    simp
  | crcAuto x f => exact congrArg Except.ok (decodeSel_autoWord f x)
  | crcForce p f => exact congrArg Except.ok ((decodeSel_forceWord f p).trans (if_pos hwf))
  | selReserved x f => exact congrArg Except.ok (decodeSel_reservedWord f x)
  | _ => rfl

/-- Settles O56: the encoder undoes the decoder, and the words it gives meet the table. -/
theorem encodeOfDecode : Obligations.EncodeOfDecode := by
  intro w i h
  have he : encode i = w := encode_of_decode h
  have hwf : i.WellFormed := wellFormed_of_decode_encode (he.symm ▸ h)
  obtain ⟨hformat, hbits⟩ := meetsTable i hwf
  exact ⟨hwf, he, he ▸ hformat, he ▸ hbits⟩

/-! ### The opcode table -/

/-- The rows of the opcode table, in its order; a row does not depend on its operands. -/
def tableRows : List TableRow :=
  [Instr.smp0, .smp1, .smpxB7 0, .smpxB6 0, .smpxB5 0, .smpxB4 0, .smpxB3 0, .smpxB2 0, .smpxB1 0,
    .manLowPhaseA0, .manLowPhaseA1, .manLowPhaseB0, .manLowPhaseB1, .manHighPhaseA0, .manHighPhaseA1,
    .manHighPhaseB0, .manHighPhaseB1, .bit0, .bit1, .frame 0 0 0 0, .polyOtherSof0, .polyOtherSof1,
    .poly2gigSof2, .poly2gigSof3, .poly2gigSof4, .polyOtherSof5, .polyOtherSof6, .poly2gigSof7,
    .polyHoneywellSof8, .poly2gigSof9, .poly2gigSofA, .poly2gigSofB, .poly2gigSofC, .polyVivintSofD,
    .polyVivintSofE, .poly2gigSofF, .crcAuto 0 0, .crcForce 0 0, .selReserved 0 0, .reset].map tableRow

/-- Every instruction's row is one of them. -/
theorem tableRow_mem_tableRows (i : Instr) : tableRow i ∈ tableRows := by
  cases i <;> exact List.elem_iff.1 rfl

/-- Match bits that one value shows under two masks agree where both masks look. -/
theorem matchBits_agree {w m n u v : BitVec 64} (hu : w &&& m = u) (hv : w &&& n = v) :
    u &&& n = v &&& m := by
  rw [← hu, ← hv, BitVec.and_assoc, BitVec.and_assoc, BitVec.and_comm m n]

/-- Two rows of one format whose match bits agree where both masks look are the same row. -/
theorem tableRows_eq_of_agree : ∀ r ∈ tableRows, ∀ q ∈ tableRows, r.format = q.format →
    r.matchBits &&& q.mask = q.matchBits &&& r.mask → r = q := by decide

/-- Settles O57: the match bits of two different rows of one format differ where both masks look. -/
theorem tableRowsAreDisjoint : Obligations.TableRowsAreDisjoint := fun i j _ hformat hi hj =>
  tableRows_eq_of_agree _ (tableRow_mem_tableRows i) _ (tableRow_mem_tableRows j) hformat
    (matchBits_agree hi hj)

/-- Settles O54, each word by evaluating the decoder on it. -/
theorem specWordsDecode : Obligations.SpecWordsDecode := by
  unfold Obligations.SpecWordsDecode
  decide

/-! ### What the rows answer -/

/-- Settles O9: the byte selects a row of SMPX, and each of the seven rows deasserts the outputs only. -/
theorem invalidSampleChangesNothing : Obligations.InvalidSampleChangesNothing := fun s =>
  ⟨fun b h0 h1 => ⟨decodeSmp b, rfl, exec_decodeSmp_invalid s h0 h1⟩,
    fun _ => rfl, fun _ => rfl, fun _ => rfl, fun _ => rfl, fun _ => rfl, fun _ => rfl, fun _ => rfl⟩

/-- A transition row is refused in a decoder state other than its own (R70). -/
theorem State.inMState_refused {s : State} {m : MState} (h : s.mstate ≠ m) (t : State) :
    s.inMState m t = .refused .rowNotSelected := if_neg h

/-- Settles O18, by the guards of the rows. -/
theorem unselectedRowIsRefused : Obligations.UnselectedRowIsRefused := fun _ =>
  ⟨fun h => ⟨State.inMState_refused h _, State.inMState_refused h _⟩,
    fun h => ⟨State.inMState_refused h _, State.inMState_refused h _⟩,
    fun h => ⟨State.inMState_refused h _, State.inMState_refused h _⟩,
    fun h => ⟨State.inMState_refused h _, State.inMState_refused h _⟩,
    fun _ _ _ _ h => if_neg h⟩

/-- Settles O25: the fields of the frame put together are the frame, so the row's guard passes. -/
theorem frameRowDelivers : Obligations.FrameRowDelivers := by
  rintro s f hsync rfl
  refine ⟨_, decodeFrm_of_sync hsync, rfl, ?_⟩
  have hf : frameWord (sofOf s.sreg) (serialOf s.sreg) (typeOf s.sreg) (crcOf s.sreg) = s.sreg :=
    frameWord_fields hsync
  simp only [exec, execFrame, hf, if_true]
  rfl

/-- The polynomial of the brand table: Honeywell's for `sof` 8, for every other the same one (R162 to R165). -/
theorem brandTable_polyUsed (sof : BitVec 4) :
    (brandTable sof).polyUsed = if sof = 0x8#4 then 0x18005#17 else 0x18050#17 := by
  revert sof; decide

/-- Settles O31: the polynomial is the brand table's, and the two checks differ in the polynomial only. -/
theorem frameEventOutputs : Obligations.FrameEventOutputs := by
  intro f
  have hpoly := brandTable_polyUsed (sofOf f)
  exact ⟨rfl, rfl, hpoly, congrArg (divides f) hpoly, rfl,
    fun h8 => congrArg (divides f) (hpoly.trans (if_neg h8))⟩

/-- Settles O33, row by row. -/
theorem polyRowsAnswerSelection : Obligations.PolyRowsAnswerSelection := by
  rintro s i x (⟨hi, rfl⟩ | ⟨rfl, rfl⟩ | ⟨hi, rfl⟩ | ⟨hi, rfl⟩)
  · fin_cases hi <;> rfl
  · rfl
  · fin_cases hi <;> rfl
  · fin_cases hi <;> rfl

/-- Settles O35: the decoder reads bits 17 and 16 alone, and both rows refuse. -/
theorem reservedSelectorIsRefused : Obligations.ReservedSelectorIsRefused := fun _ f =>
  ⟨fun _ h17 h16 => congrArg Except.ok (decodeSel_of_reserved f h17 h16), fun _ => rfl,
    fun _ h16 => if_neg (Bool.eq_false_iff.1 h16)⟩

end Sys2Proof.Machine

/-!
SUPPORT. The statements on the bit-clock recoverer (40_bit_clock_recoverer.md): what each valid sample does
through all four stages, which samples of a run emit a chip and how many do, and that invalid bytes leave no
trace in what a stream yields.
-/

namespace Sys2Proof.Machine

/-! ### One valid sample -/

/-- The sampling instant (R100). -/
theorem chipDue_iff (spb n : Nat) : chipDue spb n = true ↔ n % spb = spb / 2 := beq_iff_eq

theorem chipDue_eq_false_iff (spb n : Nat) : chipDue spb n = false ↔ n % spb ≠ spb / 2 := beq_eq_false_iff_ne

/-- The decoder's states with a data bit pending (R25). -/
def pendingState (d : Bit) : MState := if d then .highPhaseB else .lowPhaseB

theorem pendingBit_pendingState (d : Bit) : pendingBit (pendingState d) = some d := by cases d <;> rfl

/-- With a data bit pending, the next state is the chip's alone (R120). -/
theorem nextMState_pendingState (d c : Bit) :
    nextMState (pendingState d) c = if c then .highPhaseA else .lowPhaseA := by cases d <;> rfl

section sampleStep
variable {s : State} {v : Bit}

/-- In an admitted configuration a valid sample runs RECOVER (R101, R102). -/
theorem State.sampleStep_admitted (h4 : 4 ≤ s.spb) (v : Bit) :
    s.sampleStep v = .next (s.quiet.recover v) := if_pos (s.admitted_iff.2 h4)

/-- An edge sample (R100, its `else`). -/
theorem State.sampleStep_edge (h4 : 4 ≤ s.spb) (hv : s.lastSample ≠ v) :
    s.sampleStep v = .next { s with lastSample := v, samplesSinceEdge := 1, out := {} } :=
  (State.sampleStep_admitted h4 v).trans (congrArg _ (s.quiet.recover_edge v hv))

/-- A same-level sample away from the sampling instant (R100). -/
theorem State.sampleStep_silent (h4 : 4 ≤ s.spb)
    (hd : (s.samplesSinceEdge + 1) % s.spb ≠ s.spb / 2) (hv : s.lastSample = v) :
    s.sampleStep v = .next { s with samplesSinceEdge := s.samplesSinceEdge + 1, out := {} } := by
  subst hv
  have hrecover := s.quiet.recover_silent _ rfl ((chipDue_eq_false_iff ..).2 hd)
  exact (State.sampleStep_admitted h4 _).trans (congrArg _ hrecover)

/-- A same-level sample at the sampling instant emits a chip, and the decoder moves on it (R100, R190). -/
theorem State.sampleStep_chip (h4 : 4 ≤ s.spb)
    (hd : (s.samplesSinceEdge + 1) % s.spb = s.spb / 2) (hv : s.lastSample = v) :
    s.sampleStep v = .next (State.decodeChip
      { s with samplesSinceEdge := s.samplesSinceEdge + 1, out := { chip := some v } } v) := by
  subst hv
  have hrecover := s.quiet.recover_chip _ rfl ((chipDue_iff ..).2 hd)
  exact (State.sampleStep_admitted h4 _).trans (congrArg _ hrecover)

/-- The chip's way on with nothing pending (R120). -/
theorem State.sampleStep_noBit {m : MState} (h4 : 4 ≤ s.spb)
    (hd : (s.samplesSinceEdge + 1) % s.spb = s.spb / 2) (hp : pendingBit m = none)
    (hv : s.lastSample = v) (hm : s.mstate = m) :
    s.sampleStep v = .next { s with
      samplesSinceEdge := s.samplesSinceEdge + 1, mstate := nextMState m v, out := { chip := some v } } := by
  subst hm
  exact (State.sampleStep_chip h4 hd hv).trans (congrArg _ (State.decodeChip_silent _ v hp))

/-- The chip's way on with the data bit `d` pending: the framer shifts `d` in (R120, R140). -/
theorem State.sampleStep_bit {d : Bit} (h4 : 4 ≤ s.spb)
    (hd : (s.samplesSinceEdge + 1) % s.spb = s.spb / 2) (hm : s.mstate = pendingState d)
    (hv : s.lastSample = v) :
    s.sampleStep v = .next (State.shiftIn { s with
      samplesSinceEdge := s.samplesSinceEdge + 1, mstate := if v then .highPhaseA else .lowPhaseA,
      out := { chip := some v, bit := some d } } d) := by
  have hp : pendingBit s.mstate = some d := by rw [hm, pendingBit_pendingState]
  rw [← nextMState_pendingState d, ← hm]
  exact (State.sampleStep_chip h4 hd hv).trans (congrArg _ (State.decodeChip_emitting _ v hp))

/-- A pending data bit whose shift completes no sync pattern enters the register (R140). -/
theorem State.sampleStep_shifts {d : Bit} (h4 : 4 ≤ s.spb)
    (hd : (s.samplesSinceEdge + 1) % s.spb = s.spb / 2) (hm : s.mstate = pendingState d)
    (hf : syncOf (shifted s.sreg d) ≠ 0xFFFE#16) (hv : s.lastSample = v) :
    s.sampleStep v = .next { s with
      samplesSinceEdge := s.samplesSinceEdge + 1, mstate := if v then .highPhaseA else .lowPhaseA,
      sreg := shifted s.sreg d, out := { chip := some v, bit := some d } } := by
  have hsync : syncMatch (shifted s.sreg d) = false :=
    Bool.eq_false_iff.2 fun h => hf ((syncMatch_iff _).1 h)
  exact (State.sampleStep_bit h4 hd hm hv).trans (congrArg _ (State.shiftIn_of_noSync _ d hsync))

/-- A pending data bit whose shift completes the sync pattern delivers the frame (R143, R144). -/
theorem State.sampleStep_delivers {d : Bit} (h4 : 4 ≤ s.spb)
    (hd : (s.samplesSinceEdge + 1) % s.spb = s.spb / 2) (hm : s.mstate = pendingState d)
    (hf : syncOf (shifted s.sreg d) = 0xFFFE#16) (hv : s.lastSample = v) :
    s.sampleStep v = .next { s with
      samplesSinceEdge := s.samplesSinceEdge + 1, mstate := if v then .highPhaseA else .lowPhaseA,
      sreg := 0,
      out := { chip := some v, bit := some d, frame := some (frameEvent (shifted s.sreg d)) } } :=
  (State.sampleStep_bit h4 hd hm hv).trans
    (congrArg _ (State.shiftIn_of_sync _ d ((syncMatch_iff _).2 hf)))

end sampleStep

/-- Settles O4: either level is an edge after the other. -/
theorem edgeSampleRestartsCounter : Obligations.EdgeSampleRestartsCounter := fun _ h4 =>
  ⟨fun hv => State.sampleStep_edge h4 (by simp [hv]), fun hv => State.sampleStep_edge h4 (by simp [hv])⟩

/-- Settles O5, at both levels. -/
theorem sameLevelSampleCounts : Obligations.SameLevelSampleCounts := fun _ h4 hd =>
  ⟨State.sampleStep_silent h4 hd, State.sampleStep_silent h4 hd⟩

/-- Settles O6: the table's next state, in the two states with nothing pending and at both levels. -/
theorem sampleEmitsChip : Obligations.SampleEmitsChip := fun _ h4 hd =>
  ⟨State.sampleStep_noBit h4 hd rfl, State.sampleStep_noBit h4 hd rfl,
    State.sampleStep_noBit h4 hd rfl, State.sampleStep_noBit h4 hd rfl⟩

/-- Settles O7, at both levels. -/
theorem sampleReleasesPendingBit : Obligations.SampleReleasesPendingBit := fun _ _ h4 hd hp hf =>
  ⟨State.sampleStep_shifts h4 hd hp hf, State.sampleStep_shifts h4 hd hp hf⟩

/-- Settles O8, at both levels. -/
theorem sampleDeliversFrame : Obligations.SampleDeliversFrame := by
  rintro s d _ h4 hd hp rfl hf
  exact ⟨State.sampleStep_delivers h4 hd hp hf, State.sampleStep_delivers h4 hd hp hf⟩

/-! ### Runs -/

/-- The chip out at the `n`-th sample since the edge of a run of the level `v` (R105). -/
def runChip (spb : Nat) (v : Bit) (n : Nat) : Option Bit := if chipDue spb n then some v else none

/-- The edge sample itself is never a sampling instant: `HALF` is at least 2 (R101, R105). -/
theorem chipDue_one {spb : Nat} (h4 : 4 ≤ spb) : chipDue spb 1 = false := by
  rw [chipDue_eq_false_iff, Nat.mod_eq_of_lt (by omega)]
  omega

section run
variable {s : State} {v : Bit} {L : Nat} {rest : List Event}

/-- One sample of a run: stage 1 follows the level, and the rest of the run is left. -/
theorem run_step (h4 : 4 ≤ s.spb) (hi : s.input = runOf (L + 1) v ++ rest) :
    ∃ t, step s = .next t ∧ t.spb = s.spb ∧ t.input = runOf L v ++ rest ∧
      (t.lastSample, t.samplesSinceEdge, t.out.chip) =
        recovererResult s.lastSample s.samplesSinceEdge s.spb (some v) := by
  have hi : s.input = sampleOf v :: (runOf L v ++ rest) := hi
  have hstep := step_sampleOf h4 hi
  refine ⟨_, hstep, spb_step hstep, by rw [input_step hstep, hi]; rfl, ?_⟩
  rw [recoverer_step hstep, hi]
  simp [recovererStep, sampleOf]

/-- Within a run the counter goes on from where it stands, and the chips follow it (R100, R105). -/
theorem chips_of_sameLevel (h4 : 4 ≤ s.spb) (hv : s.lastSample = v) (hi : s.input = runOf L v ++ rest) :
    (observed L s).map Outputs.chip =
      (List.range' (s.samplesSinceEdge + 1) L).map (runChip s.spb v) := by
  induction L generalizing s with
  | zero => rfl
  | succ L ih =>
    obtain ⟨t, hstep, hspb, hti, hrec⟩ := run_step h4 hi
    simp only [recovererResult, hv, if_true, Prod.mk.injEq] at hrec
    obtain ⟨htv, hcount, hchip⟩ := hrec
    rw [observed_succ hstep, List.map_cons, ih (hspb ▸ h4) htv hti, hcount, hspb, hchip]
    rfl

/-- The first sample of a run emits nothing and leaves the counter at 1: by the edge, or after reset by the
count from 0 (R105). -/
theorem recovererResult_runStart {last : Bit} {count spb : Nat} (h4 : 4 ≤ spb)
    (h : last ≠ v ∨ count = 0) : recovererResult last count spb (some v) = (v, 1, none) := by
  by_cases hv : last = v
  · have hc : count = 0 := h.resolve_left fun hne => hne hv
    simp [recovererResult, hv, hc, chipDue_one h4]
  · simp [recovererResult, hv]

/-- In a run from its start the counter after the `n`-th sample is `n`, and the chips follow it (R105). -/
theorem chips_of_run (h4 : 4 ≤ s.spb) (h : s.lastSample ≠ v ∨ s.samplesSinceEdge = 0)
    (hi : s.input = runOf L v ++ rest) :
    (observed L s).map Outputs.chip = (List.range' 1 L).map (runChip s.spb v) := by
  cases L with
  | zero => rfl
  | succ L =>
    obtain ⟨t, hstep, hspb, hti, hrec⟩ := run_step h4 hi
    simp only [recovererResult_runStart h4 h, Prod.mk.injEq] at hrec
    obtain ⟨htv, hcount, hchip⟩ := hrec
    rw [observed_succ hstep, List.map_cons, chips_of_sameLevel (hspb ▸ h4) htv hti, hcount, hspb, hchip,
      List.range'_succ, List.map_cons, runChip, chipDue_one h4]
    rfl

end run

/-- Settles O10: the counter at the `n`-th sample is `n`, and `n = 1` is no sampling instant. -/
theorem chipPositionsInRun : Obligations.ChipPositionsInRun := by
  intro s v L rest h4 h hi n h1 hL
  have hdue : chipDue s.spb n = true ↔ 2 ≤ n ∧ n % s.spb = s.spb / 2 := by
    rw [chipDue_iff]
    refine ⟨fun hn => ⟨?_, hn⟩, And.right⟩
    by_contra hlt
    obtain rfl : n = 1 := by omega
    exact (chipDue_eq_false_iff ..).1 (chipDue_one h4) hn
  rw [← List.getElem?_map, chips_of_run h4 h hi, List.getElem?_map, List.getElem?_range' (by omega)]
  simp [runChip, hdue, Nat.add_sub_cancel' h1]

/-- The number of chips in a run of `L` samples (R105). -/
def chipCount (spb L : Nat) : Nat := if L < spb / 2 then 0 else (L - spb / 2) / spb + 1

/-- One sample more adds a chip at a sampling instant and none elsewhere. -/
theorem chipCount_succ {spb : Nat} (h4 : 4 ≤ spb) (L : Nat) :
    chipCount spb (L + 1) = chipCount spb L + if chipDue spb (L + 1) then 1 else 0 := by
  have hhalf : spb / 2 < spb := by omega
  unfold chipCount
  rcases Nat.lt_trichotomy (L + 1) (spb / 2) with hlt | heq | hgt
  · have hdue : chipDue spb (L + 1) = false := by
      rw [chipDue_eq_false_iff, Nat.mod_eq_of_lt (by omega)]
      omega
    simp [hdue, hlt, show L < spb / 2 by omega]
  · have hdue : chipDue spb (L + 1) = true := by
      rw [chipDue_iff, heq, Nat.mod_eq_of_lt hhalf]
    rw [hdue, heq]
    simp [show L < spb / 2 by omega]
  · have hdue : chipDue spb (L + 1) = true ↔ spb ∣ L - spb / 2 + 1 := by
      rw [chipDue_iff, ← Nat.sub_add_comm (by omega), ← Nat.modEq_iff_dvd' (by omega), Nat.ModEq,
        Nat.mod_eq_of_lt hhalf, eq_comm]
    simp only [hdue, show ¬ L + 1 < spb / 2 by omega, show ¬ L < spb / 2 by omega, if_false,
      Nat.sub_add_comm (show spb / 2 ≤ L by omega), Nat.succ_div]
    omega

/-- The chips of a run, counted sample by sample. -/
theorem filterMap_runChip {spb : Nat} (h4 : 4 ≤ spb) (v : Bit) (L : Nat) :
    (List.range' 1 L).filterMap (runChip spb v) = List.replicate (chipCount spb L) v := by
  induction L with
  | zero => simp [chipCount, show 0 < spb / 2 by omega]
  | succ L ih =>
    rw [List.range'_1_concat, List.filterMap_append, ih, chipCount_succ h4, List.replicate_add,
      Nat.add_comm 1 L]
    cases hd : chipDue spb (L + 1) <;> simp [runChip, hd]

/-- The chips in a list of outputs are those in the list of their chip ports. -/
theorem chipsIn_eq_filterMap_map (os : List Outputs) : chipsIn os = (os.map Outputs.chip).filterMap id := by
  rw [List.filterMap_map]
  rfl

/-- Settles O11: the chips of a run stand at its sampling instants, counted sample by sample. -/
theorem chipCountOfRun : Obligations.ChipCountOfRun := by
  intro s v L rest h4 h hi
  rw [chipsIn_eq_filterMap_map, chips_of_run h4 h hi, List.filterMap_map]
  exact filterMap_runChip h4 v L

/-! ### Invalid bytes -/

/-- The state without the events still to come and without the outputs of the last step: the four fields
and `SPB`. -/
def State.bare (s : State) : State := (s.setInput []).quiet

/-- The state after the next `n` steps, or where a refusal stopped them. -/
def State.after (n : Nat) (s : State) : State := (states n s).getLastD s

/-- The valid bytes of a stream (R71). -/
def validBytes (bs : List Byte) : List Byte := bs.filter fun b => b == 0x00 || b == 0x01

/-- A sample byte is a level or invalid (R71). -/
theorem byte_cases (b : Byte) : (∃ v, b = levelByte v) ∨ (b ≠ 0#8 ∧ b ≠ 1#8) := by
  by_cases h0 : b = 0#8
  · exact .inl ⟨false, h0⟩
  by_cases h1 : b = 1#8
  · exact .inl ⟨true, h1⟩
  exact .inr ⟨h0, h1⟩

theorem validBytes_level (v : Bit) (bs : List Byte) :
    validBytes (levelByte v :: bs) = levelByte v :: validBytes bs := by
  cases v <;> rfl

theorem validBytes_invalid {b : Byte} (h0 : b ≠ 0#8) (h1 : b ≠ 1#8) (bs : List Byte) :
    validBytes (b :: bs) = validBytes bs := List.filter_cons_of_neg (by simp [h0, h1])

section invisible
variable {s t s' : State}

theorem State.after_succ {n : Nat} (h : step s = .next s') : s.after (n + 1) = s'.after n := by
  rw [State.after, states_succ h, List.getLastD_cons]
  rfl

theorem State.spb_eq_of_bare (h : s.bare = t.bare) : s.spb = t.spb := congrArg (·.spb) h

theorem State.fields_eq_of_bare (h : s.bare = t.bare) :
    s.lastSample = t.lastSample ∧ s.samplesSinceEdge = t.samplesSinceEdge ∧ s.mstate = t.mstate ∧
      s.sreg = t.sreg :=
  ⟨congrArg (·.lastSample) h, congrArg (·.samplesSinceEdge) h, congrArg (·.mstate) h,
    congrArg (·.sreg) h⟩

/-- RECOVER on states alike but for the queue and the last outputs gives such states, with equal outputs. -/
theorem State.recover_of_bare (h : s.bare = t.bare) (v : Bit) (es fs : List Event) :
    ((s.setInput es).quiet.recover v).bare = ((t.setInput fs).quiet.recover v).bare ∧
      ((s.setInput es).quiet.recover v).out = ((t.setInput fs).quiet.recover v).out := by
  have hqueue : (s.setInput es).quiet.recover v = ((t.setInput fs).quiet.recover v).setInput es := by
    rw [← State.recover_setInput]
    exact congrArg (fun u : State => (u.setInput es).recover v) h
  rw [hqueue]
  exact ⟨rfl, rfl⟩

/-- From states alike but for the queue and the last outputs, a stream and the stream of its valid bytes
yield the same on every port a quiet step leaves absent, and lead to such states again (R103, R235). -/
theorem validBytes_suffice {α : Type} {port : Outputs → Option α} (hport : port {} = none)
    (bs : List Byte) (h4 : 4 ≤ s.spb) (hbare : s.bare = t.bare) (hs : s.input = bs.map .sample)
    (ht : t.input = (validBytes bs).map .sample) :
    (observed bs.length s).filterMap port = (observed (validBytes bs).length t).filterMap port ∧
      (s.after bs.length).bare = (t.after (validBytes bs).length).bare := by
  induction bs generalizing s t with
  | nil => exact ⟨rfl, hbare⟩
  | cons b bs ih =>
    rcases byte_cases b with ⟨v, rfl⟩ | ⟨h0, h1⟩
    · rw [validBytes_level] at ht ⊢
      have hstep := step_sampleOf h4 hs
      have hstep' := step_sampleOf (State.spb_eq_of_bare hbare ▸ h4) ht
      obtain ⟨hbare', hout⟩ := State.recover_of_bare hbare v (bs.map .sample) ((validBytes bs).map .sample)
      obtain ⟨hports, hlast⟩ :=
        ih (spb_step hstep ▸ h4) hbare' (State.recover_input ..) (State.recover_input ..)
      rw [List.length_cons, List.length_cons, observed_succ hstep, observed_succ hstep',
        State.after_succ hstep, State.after_succ hstep', List.filterMap_cons, List.filterMap_cons,
        hports, hout]
      exact ⟨rfl, hlast⟩
    · rw [validBytes_invalid h0 h1] at ht ⊢
      have hstep := step_invalid h4 h0 h1 hs
      have hquiet : port (s.setInput (bs.map .sample)).quiet.out = none := hport
      rw [List.length_cons, observed_succ hstep, State.after_succ hstep, List.filterMap_cons_none hquiet]
      exact ih h4 hbare rfl ht

/-- Where no step was made, the state before it may stand without its queue. -/
theorem State.bare_getLastD_states {n : Nat} (h : s.bare = t.bare) :
    ((states n t).getLastD s).bare = (t.after n).bare := by
  unfold State.after
  cases states n t with
  | nil => exact h
  | cons u us => simp only [List.getLastD_cons]

end invisible

/-- Settles O12: the stream and the stream of its valid bytes, presented in the same state. -/
theorem invalidBytesAreInvisible : Obligations.InvalidBytesAreInvisible := by
  rintro s bs _ h4 rfl run last
  have suffice {α : Type} {port : Outputs → Option α} (hport : port {} = none) :=
    validBytes_suffice (s := s.setInput (bs.map .sample))
      (t := s.setInput ((validBytes bs).map .sample)) hport bs h4 rfl rfl rfl
  have hlast (l : List Byte) : (last l).bare = ((s.setInput (l.map .sample)).after l.length).bare :=
    State.bare_getLastD_states rfl
  have hbare : (last bs).bare = (last (validBytes bs)).bare :=
    (hlast _).trans ((suffice (port := Outputs.chip) rfl).2.trans (hlast _).symm)
  exact ⟨(suffice rfl).1, (suffice rfl).1, (suffice rfl).1, State.fields_eq_of_bare hbare⟩

end Sys2Proof.Machine

/-!
SUPPORT. The statements on the Manchester decoder (41_manchester_decoder.md): what each transition does, what a
list of chips handed to the decoder yields as a function of the decoder's state alone, that the chips of encoded
data bits yield those bits, and what moves the decoder at all.
-/

namespace Sys2Proof.Machine

/-! ### The transition table -/

/-- The decoder's states with nothing pending: the `_A` state of a level (R23). -/
def levelState (c : Bit) : MState := if c then .highPhaseA else .lowPhaseA

/-- A chip equal to the level changes nothing where nothing is pending (R121, R126). -/
theorem nextMState_levelState_same (c : Bit) : nextMState (levelState c) c = levelState c := by
  cases c <;> rfl

/-- A chip of the other level is a change in the middle of a symbol, and its value the data bit (R122, R125). -/
theorem nextMState_levelState_not (d : Bit) : nextMState (levelState (!d)) d = pendingState d := by
  cases d <;> rfl

theorem pendingBit_levelState (c : Bit) : pendingBit (levelState c) = none := by cases c <;> rfl

/-- The second of two equal chips finds nothing pending at its level or the first one's bit pending, and both
lead to the same state (R134). -/
theorem nextMState_twice (m : MState) (c : Bit) : nextMState (nextMState m c) c = levelState c := by
  have hfirst : nextMState m c = levelState c ∨ nextMState m c = pendingState c := by
    cases m <;> cases c <;> decide
  rcases hfirst with h | h
  · rw [h, nextMState_levelState_same]
  · rw [h, nextMState_pendingState, levelState]

/-! ### The rows run alone -/

section rows
variable {s : State}

/-- A transition row runs in its own decoder state (R70). -/
theorem State.inMState_selected {m : MState} (h : s.mstate = m) (t : State) : s.inMState m t = .next t :=
  if_pos h

/-- An emitted data bit whose shift completes the sync pattern delivers the frame (R140, R143, R144). -/
theorem State.goEmitting_of_sync (m : MState) {d : Bit} (h : syncOf (shifted s.sreg d) = 0xFFFE#16) :
    s.quiet.goEmitting m d = { s with
      mstate := m, sreg := 0, out := { bit := some d, frame := some (frameEvent (shifted s.sreg d)) } } :=
  State.shiftIn_of_sync _ d ((syncMatch_iff _).2 h)

/-- Any other emitted data bit enters the register (R140). -/
theorem State.goEmitting_of_noSync (m : MState) {d : Bit} (h : syncOf (shifted s.sreg d) ≠ 0xFFFE#16) :
    s.quiet.goEmitting m d = { s with mstate := m, sreg := shifted s.sreg d, out := { bit := some d } } :=
  State.shiftIn_of_noSync _ d (Bool.eq_false_iff.2 fun hm => h ((syncMatch_iff _).1 hm))

end rows

/-- Settles O16: each row's guard passes, and a silent transition writes the decoder's state only. -/
theorem midSymbolChipsPendBit : Obligations.MidSymbolChipsPendBit :=
  ⟨rfl, rfl, fun _ h => State.inMState_selected h _, fun _ h => State.inMState_selected h _⟩

/-- Settles O17: each row's guard passes, and the emitted bit delivers or enters the register. -/
theorem emittingTransitionsReleaseBit : Obligations.EmittingTransitionsReleaseBit := by
  refine ⟨rfl, rfl, rfl, rfl, ?_⟩
  intro s d f i j hrow hf
  obtain rfl : f = shifted s.sreg d := hf
  obtain ⟨hi, hj⟩ : exec i s = .next (s.quiet.goEmitting .lowPhaseA d) ∧
      exec j s = .next (s.quiet.goEmitting .highPhaseA d) := by
    rcases hrow with ⟨rfl, hm, rfl, rfl⟩ | ⟨rfl, hm, rfl, rfl⟩
    · exact ⟨State.inMState_selected hm _, State.inMState_selected hm _⟩
    · exact ⟨State.inMState_selected hm _, State.inMState_selected hm _⟩
  rw [hi, hj]
  split
  · next h =>
    exact ⟨congrArg _ (State.goEmitting_of_sync _ h), congrArg _ (State.goEmitting_of_sync _ h)⟩
  · next h =>
    exact ⟨congrArg _ (State.goEmitting_of_noSync _ h), congrArg _ (State.goEmitting_of_noSync _ h)⟩

/-- Settles O44: RESET writes the four fields and the outputs, and nothing else. -/
theorem resetRestoresResetValues : Obligations.ResetRestoresResetValues := fun _ => ⟨rfl, rfl⟩

/-! ### What moves the decoder -/

/-- A step that put a chip out, or was handed one, moves the decoder on that chip: RESET and a chip handed in
put none out (R120, R28). -/
theorem decoder_step_of_chip {s t : State} {c : Bit} (h : step s = .next t)
    (hc : t.out.chip = some c ∨ ∃ es, s.input = .chip c :: es) :
    (t.mstate, t.out.bit) = decoderResult s.mstate (some c) := by
  rw [decoder_step h]
  rcases hc with hc | ⟨es, hi⟩
  · have hrec : (recovererStep s.input s.lastSample s.samplesSinceEdge s.spb).2.2 = some c := by
      rw [← recoverer_step h, hc]
    unfold decoderStep
    split
    · next hi => rw [hi] at hrec; cases hrec
    · next hi => rw [hi] at hrec; cases hrec
    · rw [hc]
  · rw [hi]
    rfl

/-- Settles O14: the decoder's share of the step is the table's row of its state and the chip. -/
theorem chipRunsTransitionTable : Obligations.ChipRunsTransitionTable := by
  intro s t c h hc
  obtain ⟨hnext, hbit⟩ := Prod.mk.inj (decoder_step_of_chip h hc)
  have row {m : MState} (hm : s.mstate = m) : t.out.bit = pendingBit m ∧ t.mstate = nextMState m c :=
    hm ▸ ⟨hbit, hnext⟩
  exact ⟨row, row, row, row⟩

/-- Settles O19, by the kinds of event: of the valid samples only one at the sampling instant reaches the
decoder. -/
theorem onlyChipOrResetMovesDecoder : Obligations.OnlyChipOrResetMovesDecoder := by
  intro s t h hne
  cases stepCase_of_step h with
  | reset es hi => exact .inl ⟨es, hi⟩
  | chip c es hi => exact .inr (.inl ⟨c, es, hi⟩)
  | valid v es hi ht =>
    rcases (s.setInput es).quiet.recover_cases v with ⟨_, hr⟩ | ⟨_, _, hr⟩ | ⟨hv, hd, hr⟩
    · exact absurd (by simp [ht, hr]) hne
    · exact absurd (by simp [ht, hr]) hne
    · exact .inr (.inr ⟨v, es, hi, hv, (chipDue_iff ..).1 hd, by simp [ht, hr]⟩)
  | idle _ ht | invalid _ _ _ _ _ ht | dbit _ _ _ ht | syncTest _ _ _ ht | syncTestFails _ _ _ ht
  | brandOf _ _ _ ht | crc _ _ _ _ _ ht => exact absurd (by simp [ht]) hne

/-! ### Chips handed to the decoder -/

/-- The data bits the decoder emits on these chips (R120). -/
def decodedBits : MState → List Bit → List Bit
  | _, [] => []
  | m, c :: cs => (pendingBit m).toList ++ decodedBits (nextMState m c) cs

section chips
variable {s : State} {c : Bit} {rest : List Event}

/-- A chip handed to the decoder: what the decoder does, and the events left. -/
theorem chip_step (h4 : 4 ≤ s.spb) (hi : s.input = .chip c :: rest) :
    ∃ t, step s = .next t ∧ 4 ≤ t.spb ∧ t.input = rest ∧
      t.mstate = nextMState s.mstate c ∧ t.out.bit = pendingBit s.mstate := by
  have hstep := step_chip h4 hi
  obtain ⟨hnext, hbit⟩ := Prod.mk.inj (decoder_step_of_chip hstep (.inr ⟨_, hi⟩))
  exact ⟨_, hstep, spb_step hstep ▸ h4, by rw [input_step hstep, hi, List.tail_cons], hnext, hbit⟩

theorem bitsIn_cons (o : Outputs) (os : List Outputs) : bitsIn (o :: os) = o.bit.toList ++ bitsIn os := by
  cases hb : o.bit <;> simp [bitsIn, hb]

/-- The data bits put out on these chips are the decoder's, and depend on its state alone. -/
theorem bitsIn_observed_chips {cs : List Bit} (h4 : 4 ≤ s.spb) (hi : s.input = cs.map .chip ++ rest) :
    bitsIn (observed cs.length s) = decodedBits s.mstate cs := by
  induction cs generalizing s with
  | nil => rfl
  | cons c cs ih =>
    obtain ⟨t, hstep, ht4, hti, hm, hb⟩ := chip_step h4 hi
    rw [List.length_cons, observed_succ hstep, bitsIn_cons, ih ht4 hti, hm, hb, decodedBits]

/-- A chip of the decoder's own level, with nothing pending, leaves the decoder and the framer as they are
(R121, R126). -/
theorem steady_step (h4 : 4 ≤ s.spb) (hm : s.mstate = levelState c) (hi : s.input = .chip c :: rest) :
    step s = .next (s.setInput rest).quiet := by
  have hp : pendingBit s.mstate = none := by rw [hm, pendingBit_levelState]
  have hnext : nextMState s.mstate c = s.mstate := by rw [hm, nextMState_levelState_same]
  have hdecode := State.decodeChip_silent (s.setInput rest).quiet c hp
  rw [step_chip h4 hi, hdecode]
  exact congrArg (fun m => Host.Outcome.next ((s.setInput rest).quiet.setMState m)) hnext

/-- The corner case of R121 and R126: any number of such chips. -/
theorem states_steady {n : Nat} (h4 : 4 ≤ s.spb) (hm : s.mstate = levelState c)
    (hi : s.input = List.replicate n (.chip c) ++ rest) :
    (states n s).length = n ∧ ∀ t ∈ states n s, t.mstate = s.mstate ∧ t.sreg = s.sreg ∧ t.out = {} := by
  induction n generalizing s with
  | zero => exact ⟨rfl, fun t ht => absurd ht List.not_mem_nil⟩
  | succ n ih =>
    have hstep := steady_step h4 hm hi
    obtain ⟨hlen, hall⟩ := ih (s := (s.setInput (List.replicate n (.chip c) ++ rest)).quiet) h4 hm rfl
    rw [states_succ hstep]
    refine ⟨congrArg Nat.succ hlen, fun t ht => ?_⟩
    rcases List.mem_cons.1 ht with rfl | ht
    · exact ⟨rfl, rfl, rfl⟩
    · exact hall t ht

end chips

/-- Settles O15: each row's guard passes, and such chips repeated leave the state they find. -/
theorem steadyChipsEmitNothing : Obligations.SteadyChipsEmitNothing :=
  ⟨rfl, rfl, fun _ h => State.inMState_selected h _, fun _ h => State.inMState_selected h _,
    fun _ _ _ _ h4 hm hi => states_steady h4 hm hi⟩

/-- Settles O20, from the table's next states on the same chip twice. -/
theorem equalChipsFixDecoder : Obligations.EqualChipsFixDecoder := by
  intro s c rest h4 hi
  obtain ⟨t, ht, ht4, hti, htm, -⟩ := chip_step h4 hi
  obtain ⟨u, hu, -, -, hum, -⟩ := chip_step ht4 hti
  refine ⟨t, u, by rw [states_succ ht, states_succ hu]; rfl, ?_⟩
  rw [hum, htm, nextMState_twice, levelState]

/-! ### Encoded data bits -/

/-- The chips of the symbol of one data bit (R72). -/
def symbol (d : Bit) : List Bit := [!d, d]

/-- The model's symbol events hand over those chips. -/
theorem flatMap_symbolChips (ds : List Bit) : ds.flatMap symbolChips = (ds.flatMap symbol).map .chip := by
  rw [List.map_flatMap]
  rfl

theorem length_flatMap_symbol (ds : List Bit) : (ds.flatMap symbol).length = 2 * ds.length := by
  simp [List.length_flatMap, symbol, Nat.mul_comm]

/-- A symbol that finds a data bit pending releases it with its first chip, and leaves its own pending. -/
theorem decodedBits_pending_symbol (d e : Bit) (cs : List Bit) :
    decodedBits (pendingState d) (symbol e ++ cs) = d :: decodedBits (pendingState e) cs := by
  have hfirst : nextMState (pendingState d) (!e) = levelState (!e) := nextMState_pendingState d (!e)
  simp [symbol, decodedBits, hfirst, pendingBit_pendingState, pendingBit_levelState,
    nextMState_levelState_not]

/-- Symbols after a pending data bit yield that bit and all of theirs but the last, which is left pending. -/
theorem decodedBits_pending_symbols (d : Bit) (ds cs : List Bit) :
    decodedBits (pendingState d) (ds.flatMap symbol ++ cs) =
      (d :: ds).dropLast ++ decodedBits (pendingState ((d :: ds).getLast (List.cons_ne_nil d ds))) cs := by
  induction ds generalizing d with
  | nil => rfl
  | cons e ds ih => simp [decodedBits_pending_symbol, ih]

/-- The first symbol of a phase-locked decoder emits nothing and leaves its bit pending (R133). -/
theorem decodedBits_locked_symbol (d : Bit) (cs : List Bit) :
    decodedBits (levelState (!d)) (symbol d ++ cs) = decodedBits (pendingState d) cs := by
  simp [symbol, decodedBits, nextMState_levelState_same, pendingBit_levelState, nextMState_levelState_not]

/-- Half a symbol out of phase, a symbol's first chip is read as the middle of one, and its second releases the
complement (R133). -/
theorem decodedBits_outOfPhase_symbol (d : Bit) (cs : List Bit) :
    decodedBits (levelState d) (symbol d ++ cs) = (!d) :: decodedBits (levelState d) cs := by
  have hfirst : nextMState (levelState d) (!d) = pendingState (!d) := by
    simpa using nextMState_levelState_not (!d)
  have hsecond : nextMState (pendingState (!d)) d = levelState d := nextMState_pendingState (!d) d
  simp [symbol, decodedBits, hfirst, hsecond, pendingBit_levelState, pendingBit_pendingState]

/-- The complement law over a run of one data value. -/
theorem decodedBits_outOfPhase (d : Bit) (n : Nat) :
    decodedBits (levelState d) ((List.replicate n d).flatMap symbol) = List.replicate n (!d) := by
  induction n with
  | zero => rfl
  | succ n ih => rw [List.replicate_succ, List.flatMap_cons, decodedBits_outOfPhase_symbol, ih,
      List.replicate_succ]

/-- Settles O21: the first symbol leaves its bit pending, each later symbol releases the one before it, and the
further chip the last. -/
theorem manchesterRoundTrip : Obligations.ManchesterRoundTrip := by
  intro s d ds c rest h4 hm hi
  have hlocked : s.mstate = levelState (!d) := by cases d <;> exact hm
  have hlen : ((d :: ds).flatMap symbol).length = 2 * (ds.length + 1) := length_flatMap_symbol (d :: ds)
  have hbits (cs : List Bit) : decodedBits s.mstate ((d :: ds).flatMap symbol ++ cs) =
      (d :: ds).dropLast ++ decodedBits (pendingState ((d :: ds).getLast (List.cons_ne_nil d ds))) cs := by
    rw [hlocked, List.flatMap_cons, List.append_assoc, decodedBits_locked_symbol, decodedBits_pending_symbols]
  rw [flatMap_symbolChips] at hi
  constructor
  · rw [← hlen, bitsIn_observed_chips h4 hi]
    simpa [decodedBits] using hbits []
  · have hi' : s.input = ((d :: ds).flatMap symbol ++ [c]).map .chip ++ rest := by simpa using hi
    have hlen' : ((d :: ds).flatMap symbol ++ [c]).length = 2 * (ds.length + 1) + 1 := by
      rw [List.length_append, hlen, List.length_singleton]
    rw [← hlen', bitsIn_observed_chips h4 hi', hbits, decodedBits, pendingBit_pendingState]
    exact List.dropLast_append_getLast (List.cons_ne_nil d ds)

/-- Settles O22: the decoder starts, and after each symbol stands, in the `_A` state of the data value. -/
theorem outOfPhaseComplements : Obligations.OutOfPhaseComplements := by
  intro s d n rest h4 hm hi
  have hstart : s.mstate = levelState d := hm
  have hlen : ((List.replicate n d).flatMap symbol).length = 2 * n := by
    rw [length_flatMap_symbol, List.length_replicate]
  rw [flatMap_symbolChips] at hi
  rw [← hlen, bitsIn_observed_chips h4 hi, hstart, decodedBits_outOfPhase]

end Sys2Proof.Machine

/-!
SUPPORT. The statements on the framer (42_framer.md): which shifts deliver and what a delivery clears, and what
a list of data bits handed to the framer delivers and leaves, as a function of the register alone.
-/

namespace Sys2Proof.Machine

/-! ### One shift -/

section shifted
variable (r : Word) (d : Bit)

/-- The new bit enters at the low end (R140). -/
theorem getLsbD_shifted_zero : (shifted r d).getLsbD 0 = d := by cases d <;> simp [shifted, bitWord]

/-- Every other bit moves up by one, and old bit 63 has no place left (R140). -/
theorem getLsbD_shifted_succ {k : Nat} (hk : k + 1 < 64) :
    (shifted r d).getLsbD (k + 1) = r.getLsbD k := by
  have hbit : (bitWord d).getLsbD (k + 1) = false := by cases d <;> simp [bitWord]
  simp only [shifted, BitVec.getLsbD_or, hbit, BitVec.getLsbD_shiftLeft]
  simp [hk]

/-- The register after a shift is `{r[62:0], d}` (R145). -/
theorem shifted_eq_append : shifted r d = r.extractLsb' 0 63 ++ BitVec.ofBool d := by
  apply BitVec.eq_of_getLsbD_eq
  intro j hj
  cases j with
  | zero =>
    rw [getLsbD_shifted_zero, BitVec.getLsbD_append]
    simp
  | succ j =>
    rw [getLsbD_shifted_succ r d hj, BitVec.getLsbD_append]
    simp [show j < 63 by omega]

/-- The bits tested after a shift are bits 62..47 before it (R145). -/
theorem syncOf_shifted : syncOf (shifted r d) = r.extractLsb' 47 16 := by
  rw [shifted_eq_append, syncOf, BitVec.extractLsb'_append_eq_of_le (by decide),
    BitVec.extractLsb'_extractLsb'_of_le (by decide)]

end shifted

/-- A register with the sync pattern is zeroed and delivered (R143, R144). -/
theorem testResult_of_sync {r : Word} (h : syncOf r = 0xFFFE#16) :
    testResult r = (0, some (frameEvent r)) := if_pos ((syncMatch_iff r).2 h)

theorem syncMatch_eq_false {r : Word} (h : syncOf r ≠ 0xFFFE#16) : syncMatch r = false :=
  Bool.eq_false_iff.2 fun hm => h ((syncMatch_iff r).1 hm)

/-- A value that shows the sync pattern has ones in bits 63..49 and a zero in bit 48 (R75). -/
theorem getLsbD_of_sync {r : Word} (h : syncOf r = 0xFFFE#16) {j : Nat} (hlow : 48 ≤ j) (hj : j < 64) :
    r.getLsbD j = decide (49 ≤ j) := by
  have hbit : (syncOf r).getLsbD (j - 48) = r.getLsbD j := by
    simp [syncOf, show j - 48 < 16 by omega, Nat.add_sub_cancel' hlow]
  rw [← hbit, h]
  clear hbit h
  revert j
  decide

/-! ### The rows BIT0 and BIT1 -/

/-- Both rows run SHIFT_IN (R141, R142). -/
theorem exec_bit (s : State) (d : Bit) :
    exec (if d then .bit1 else .bit0) s = .next (s.quiet.shiftIn d) := by cases d <;> rfl

/-- Settles O24: each row shifts its bit in, and the sync test decides between the two outcomes. -/
theorem bitShiftsOrDelivers : Obligations.BitShiftsOrDelivers := by
  intro s d i f hi hf
  obtain rfl : f = shifted s.sreg d := hf
  obtain rfl : i = if d then .bit1 else .bit0 := by
    rcases hi with ⟨rfl, rfl⟩ | ⟨rfl, rfl⟩ <;> rfl
  rw [exec_bit]
  split
  · next h => exact congrArg _ (State.shiftIn_of_sync s.quiet d ((syncMatch_iff _).2 h))
  · next h =>
    exact congrArg _ (State.shiftIn_of_noSync s.quiet d (syncMatch_eq_false h))

/-- Settles O27: the bits tested are old ones, and the value delivered is the register after the shift. -/
theorem deliveryDependsOnOldBits : Obligations.DeliveryDependsOnOldBits := by
  intro s t d h
  obtain rfl : s.quiet.shiftIn d = t := Host.Outcome.next.inj ((exec_bit s d).symm.trans h)
  have hframe : (s.quiet.shiftIn d).out.frame = (testResult (shifted s.sreg d)).2 :=
    congrArg Prod.snd (s.quiet.shiftIn_framer d rfl)
  rw [hframe, ← syncOf_shifted s.sreg d, ← shifted_eq_append]
  constructor
  · by_cases hsync : syncOf (shifted s.sreg d) = 0xFFFE#16
    · simp [testResult_of_sync, hsync]
    · simp [testResult_of_syncFree, hsync]
  · rintro e he
    rw [eq_frameEvent_of_testResult he]
    rfl

/-! ### What a delivery clears -/

/-- A sync test that gives a frame zeroes the register, and the frame shows the pattern (R143, R144). -/
theorem delivery_of_testResult {r r' : Word} {e : FrameOut} (h : testResult r = (r', some e)) :
    r' = 0 ∧ syncOf e.frame = 0xFFFE#16 := by
  by_cases hsync : syncOf r = 0xFFFE#16
  · rw [testResult_of_sync hsync] at h
    cases h
    exact ⟨rfl, hsync⟩
  · rw [testResult_of_syncFree hsync] at h
    cases h

/-- So does the framer's share of any step. -/
theorem delivery_of_framerStep {es : List Event} {r r' : Word} {bit : Option Bit} {e : FrameOut}
    (h : framerStep es r bit = (r', some e)) : r' = 0 ∧ syncOf e.frame = 0xFFFE#16 := by
  unfold framerStep at h
  split at h
  · cases h
  · exact delivery_of_testResult h
  · exact delivery_of_testResult h
  · cases bit with
    | none => cases h
    | some d => exact delivery_of_testResult h

/-- With a data bit pending, the decoder goes to the `_A` state of the chip (R120). -/
theorem nextMState_of_pending {m : MState} {d : Bit} (h : pendingBit m = some d) (c : Bit) :
    nextMState m c = levelState c := by
  cases m with
  | lowPhaseA | highPhaseA => cases h
  | lowPhaseB => exact nextMState_pendingState false c
  | highPhaseB => exact nextMState_pendingState true c

/-- A chip that delivers found a data bit pending, so it leaves the decoder in the `_A` state of its level. -/
theorem State.decodeChip_mstate_of_frame {s : State} {c : Bit} {e : FrameOut} (hf : s.out.frame = none)
    (he : (s.decodeChip c).out.frame = some e) : (s.decodeChip c).mstate = levelState c := by
  rcases s.decodeChip_cases c with ⟨_, h⟩ | ⟨d, hp, _⟩
  · rw [h] at he
    cases hf.symm.trans he
  · rw [State.decodeChip_mstate, nextMState_of_pending hp]

/-- Settles O26: the register and the frame by the framer's share of the step, the rest by the kinds of
event. -/
theorem deliveryClearsOnlyRegister : Obligations.DeliveryClearsOnlyRegister := by
  intro s t e h he
  obtain ⟨hreg, hsync⟩ := delivery_of_framerStep ((framer_step h).symm.trans (congrArg (t.sreg, ·) he))
  refine ⟨hreg, hsync, frame_step h he, ?_⟩
  cases stepCase_of_step h with
  | valid v es hi ht =>
    rcases (s.setInput es).quiet.recover_cases v with ⟨_, hr⟩ | ⟨_, _, hr⟩ | ⟨_, _, hr⟩
    · simp [ht, hr] at he
    · simp [ht, hr] at he
    · rw [ht, hr] at he
      have hm := State.decodeChip_mstate_of_frame rfl he
      rw [ht, hr]
      exact .inl ⟨v, by simp, by simp, by simp, hm⟩
  | chip c es hi ht =>
    rw [ht] at he
    have hm := State.decodeChip_mstate_of_frame rfl he
    rw [ht]
    exact .inr ⟨by simp, by simp, by simp, .inl ⟨c, es, hi, hm⟩⟩
  | dbit _ _ _ ht | syncTest _ _ _ ht => exact .inr (by simp [ht])
  | idle _ ht | invalid _ _ _ _ _ ht | reset _ _ ht | syncTestFails _ _ _ ht | brandOf _ _ _ ht
  | crc _ _ _ _ _ ht => simp [ht] at he

/-! ### Data bits shifted in without a test -/

/-- The register after these data bits, were there no sync test. -/
def shiftedAll (r : Word) (ds : List Bit) : Word := ds.foldl shifted r

theorem shiftedAll_concat (r : Word) (ds : List Bit) (d : Bit) :
    shiftedAll r (ds ++ [d]) = shifted (shiftedAll r ds) d :=
  List.foldl_concat shifted r d ds

/-- From a zero register, bit `k` is the `k`-th newest data bit, and 0 where none arrived (R146). -/
theorem getLsbD_shiftedAll_zero (ds : List Bit) {k : Nat} (hk : k < 64) :
    (shiftedAll 0 ds).getLsbD k = ds.reverse.getD k false := by
  induction ds using List.reverseRecOn generalizing k with
  | nil => simp [shiftedAll]
  | append_singleton ds d ih =>
    rw [shiftedAll_concat, List.reverse_concat]
    cases k with
    | zero => exact getLsbD_shifted_zero _ d
    | succ k => rw [getLsbD_shifted_succ _ d hk, ih (by omega), List.getD_cons_succ]

/-- The sync pattern takes 64 data bits: its first one has to reach bit 63 (R147). -/
theorem length_of_sync {ds : List Bit} (h : syncOf (shiftedAll 0 ds) = 0xFFFE#16) : 64 ≤ ds.length := by
  by_contra hlt
  have hset : (shiftedAll 0 ds).getLsbD 63 = true := getLsbD_of_sync h (by decide) (by decide)
  rw [getLsbD_shiftedAll_zero ds (by decide), List.getD_eq_default _ _ (by simp; omega)] at hset
  cases hset

/-! ### Data bits handed to the framer -/

/-- The register the framer leaves on these data bits, and the frames it delivers (R140). -/
def framedBits : Word → List Bit → Word × List FrameOut
  | r, [] => (r, [])
  | r, d :: ds =>
    let (r', frame) := testResult (shifted r d)
    let (r'', frames) := framedBits r' ds
    (r'', frame.toList ++ frames)

section framedBits
variable {r : Word} {d : Bit} {ds : List Bit}

theorem framedBits_cons_of_noSync (h : syncOf (shifted r d) ≠ 0xFFFE#16) :
    framedBits r (d :: ds) = framedBits (shifted r d) ds := by
  simp [framedBits, testResult_of_syncFree h]

/-- Where no frame was delivered, every data bit went into the register and stayed (R146). -/
theorem framedBits_of_noFrames (h : (framedBits r ds).2 = []) : (framedBits r ds).1 = shiftedAll r ds := by
  induction ds generalizing r with
  | nil => rfl
  | cons d ds ih =>
    by_cases hsync : syncOf (shifted r d) = 0xFFFE#16
    · simp [framedBits, testResult_of_sync hsync] at h
    · rw [framedBits_cons_of_noSync hsync] at h ⊢
      exact ih h

/-- Data bits that never bring the sync pattern to the top go into the register and deliver nothing. -/
theorem framedBits_append_of_noSync (h : ∀ pre, pre <+: ds → syncOf (shiftedAll r pre) ≠ 0xFFFE#16)
    (es : List Bit) : framedBits r (ds ++ es) = framedBits (shiftedAll r ds) es := by
  induction ds generalizing r with
  | nil => rfl
  | cons d ds ih =>
    rw [List.cons_append, framedBits_cons_of_noSync (h [d] (by simp))]
    exact ih fun pre hpre => h (d :: pre) (List.cons_prefix_cons.2 ⟨rfl, hpre⟩)

theorem framedBits_of_noSync (h : ∀ pre, pre <+: ds → syncOf (shiftedAll r pre) ≠ 0xFFFE#16) :
    framedBits r ds = (shiftedAll r ds, []) := by
  simpa [framedBits] using framedBits_append_of_noSync h []

/-- After such data bits one that brings it there delivers the frame they make up (R143). -/
theorem framedBits_concat_of_sync (h : ∀ pre, pre <+: ds → syncOf (shiftedAll r pre) ≠ 0xFFFE#16)
    (hd : syncOf (shiftedAll r (ds ++ [d])) = 0xFFFE#16) :
    framedBits r (ds ++ [d]) = (0, [frameEvent (shiftedAll r (ds ++ [d]))]) := by
  rw [framedBits_append_of_noSync h]
  rw [shiftedAll_concat] at hd ⊢
  simp [framedBits, testResult_of_sync hd]

end framedBits

section bits
variable {s : State} {d : Bit} {ds : List Bit} {rest : List Event}

/-- A data bit handed to the framer: what the framer does, and the events left. -/
theorem bit_step (h4 : 4 ≤ s.spb) (hi : s.input = .dbit d :: rest) :
    ∃ t, step s = .next t ∧ 4 ≤ t.spb ∧ t.input = rest ∧
      (t.sreg, t.out.frame) = testResult (shifted s.sreg d) := by
  have hstep := step_dbit h4 hi
  exact ⟨_, hstep, spb_step hstep ▸ h4, by rw [input_step hstep, hi, List.tail_cons],
    by rw [framer_step hstep, hi]; rfl⟩

theorem framesIn_cons (o : Outputs) (os : List Outputs) :
    framesIn (o :: os) = o.frame.toList ++ framesIn os := by
  cases hf : o.frame <;> simp [framesIn, hf]

/-- What the block delivers and keeps on these data bits is the framer's, and depends on the register alone. -/
theorem framedBits_run (h4 : 4 ≤ s.spb) (hi : s.input = ds.map .dbit ++ rest) :
    ((s.after ds.length).sreg, framesIn (observed ds.length s)) = framedBits s.sreg ds := by
  induction ds generalizing s with
  | nil => rfl
  | cons d ds ih =>
    obtain ⟨t, hstep, ht4, hti, htest⟩ := bit_step h4 hi
    rw [List.length_cons, State.after_succ hstep, observed_succ hstep, framesIn_cons]
    simp only [framedBits, ← htest, ← ih ht4 hti]

end bits

/-- Settles O28: with no delivery the register holds what was shifted in. -/
theorem registerHoldsNewestBits : Obligations.RegisterHoldsNewestBits := by
  intro s ds rest h4 hr hi hnone k hk
  obtain ⟨hreg, hframes⟩ := Prod.mk.inj (framedBits_run h4 hi)
  have hsreg : (s.after ds.length).sreg = shiftedAll 0 ds := by
    rw [hreg, framedBits_of_noFrames (hframes.symm.trans hnone), hr]
  exact (congrArg (·.getLsbD k) hsreg).trans (getLsbD_shiftedAll_zero ds hk)

/-- Settles O29: no list of data bits that short, nor any it begins with, brings the pattern to the top. -/
theorem noFrameBeforeSixtyFourBits : Obligations.NoFrameBeforeSixtyFourBits := by
  intro s ds rest h4 hr hi hlt
  have hframes := congrArg Prod.snd (framedBits_run h4 hi)
  refine hframes.trans (congrArg Prod.snd (framedBits_of_noSync fun pre hpre hsync => ?_))
  rw [hr] at hsync
  have h64 := length_of_sync hsync
  have hle := hpre.length_le
  omega

/-! ### A frame after its preamble -/

/-- `k` ones, the zero and the 48 low bits of `f` (R148). -/
def preambleBits (k : Nat) (f : Word) : List Bit := List.replicate k true ++ false :: bitsFrom 48 f

/-- A value's bits, lowest first. -/
theorem reverse_bitsFrom (n : Nat) (f : Word) : (bitsFrom n f).reverse = (List.range n).map f.getLsbD := by
  induction n with
  | zero => rfl
  | succ n ih => simp [bitsFrom, ih, List.range_succ]

theorem length_preambleBits (k : Nat) (f : Word) : (preambleBits k f).length = k + 49 := by
  have hbits : (bitsFrom 48 f).length = 48 := by
    rw [← List.length_reverse, reverse_bitsFrom, List.length_map, List.length_range]
  simp [preambleBits, hbits]

/-- Fifteen of the ones, the zero and the low bits make up the frame (R148). -/
theorem shiftedAll_preambleBits {k : Nat} {f : Word} (hk : 15 ≤ k) (hf : syncOf f = 0xFFFE#16) :
    shiftedAll 0 (preambleBits k f) = f := by
  have hrev : (preambleBits k f).reverse =
      (List.range 48).map f.getLsbD ++ false :: List.replicate k true := by
    simp [preambleBits, reverse_bitsFrom]
  apply BitVec.eq_of_getLsbD_eq
  intro j hj
  rw [getLsbD_shiftedAll_zero _ hj, hrev]
  rcases Nat.lt_trichotomy j 48 with hlow | rfl | hhigh
  · simp [List.getElem?_append_left, hlow]
  · rw [getLsbD_of_sync hf le_rfl hj]
    simp
  · obtain ⟨i, rfl⟩ := Nat.exists_eq_add_of_lt hhigh
    rw [getLsbD_of_sync hf (by omega) hj, List.getD_append_right _ _ _ _ (by simp; omega)]
    simp [show 48 + i + 1 - 48 = i + 1 by omega, show i < k by omega]

/-- Before the last data bit, bit 48 of the register is still one of the ones (R148). -/
theorem noSync_of_prefix_preambleBits {k : Nat} {f : Word} {pre : List Bit} (hpre : pre <+: preambleBits k f)
    (hlen : pre.length ≤ k + 48) : syncOf (shiftedAll 0 pre) ≠ 0xFFFE#16 := by
  intro hsync
  have h64 := length_of_sync hsync
  have hzero : (shiftedAll 0 pre).getLsbD 48 = false := getLsbD_of_sync hsync le_rfl (by decide)
  have hone : pre[pre.length - 1 - 48]? = some true := by
    have hones : (List.replicate k true)[pre.length - 1 - 48]? = some true :=
      List.getElem?_replicate_of_lt (by omega)
    obtain ⟨suf, hsuf⟩ := hpre
    rw [← List.getElem?_append_left (l₂ := suf) (by omega), hsuf, preambleBits,
      List.getElem?_append_left (by simp; omega), hones]
  rw [getLsbD_shiftedAll_zero pre (by decide), List.getD_eq_getElem?_getD,
    List.getElem?_reverse (by omega), hone] at hzero
  cases hzero

/-- Settles O30: the pattern reaches the top with the last data bit, and not before it. -/
theorem preambleOfAnyLengthDelivers : Obligations.PreambleOfAnyLengthDelivers := by
  intro s k f rest h4 hr hk hf hi
  obtain ⟨init, d, hsplit⟩ : ∃ init d, preambleBits k f = init ++ [d] :=
    (List.eq_nil_or_concat' _).resolve_left fun h => by simpa [h] using length_preambleBits k f
  have hlen : init.length = k + 48 := by simpa [hsplit] using length_preambleBits k f
  have hquiet : ∀ pre, pre <+: init → syncOf (shiftedAll s.sreg pre) ≠ 0xFFFE#16 := fun pre hpre =>
    hr ▸ noSync_of_prefix_preambleBits (hsplit ▸ hpre.trans (List.prefix_append init [d]))
      (hlen ▸ hpre.length_le)
  have hall : s.input = (init ++ [d]).map .dbit ++ rest := hsplit ▸ hi
  have hinit : s.input = init.map .dbit ++ (.dbit d :: rest) := by simpa using hall
  have hf' : shiftedAll s.sreg (init ++ [d]) = f := by
    rw [← hsplit, hr, shiftedAll_preambleBits hk hf]
  have hrun := framedBits_run h4 hall
  rw [framedBits_concat_of_sync hquiet (hf'.symm ▸ hf), hf', ← hsplit, length_preambleBits] at hrun
  obtain ⟨hreg, hframes⟩ := Prod.mk.inj hrun
  refine ⟨?_, hframes, hreg⟩
  rw [← hlen]
  exact (congrArg Prod.snd (framedBits_run h4 hinit)).trans
    (congrArg Prod.snd (framedBits_of_noSync hquiet))

end Sys2Proof.Machine

/-!
SUPPORT. The statements on the CRC-16 validator (43_crc_validator.md). For an admitted polynomial the division
is a reduction that tests one fixed bit in each pass (R168, R169). In that form it is linear in the value, it
does not touch the bits below the lowest term of the polynomial, and each pass is one step of the 16-bit shift
register (R170); the rules of R172 to R176 follow.
-/

namespace Sys2Proof.Machine

/-! ### What the division reads -/

theorem getLsbD_dividend (f : Word) (i : Nat) :
    (dividend f).getLsbD i = (decide (i < 48) && f.getLsbD i) := by
  have hmask : ~~~Config.syncMask = (BitVec.allOnes 48).setWidth 64 := by decide
  rw [dividend, hmask, BitVec.getLsbD_and, BitVec.getLsbD_setWidth, BitVec.getLsbD_allOnes, Bool.and_comm]
  by_cases h : i < 48
  · rw [decide_eq_true (show i < 64 by omega), Bool.true_and]
  · rw [decide_eq_false h, Bool.and_false]

/-- The dividend is the payload, zero-extended (R80). -/
theorem dividend_eq (f : Word) : dividend f = (f.extractLsb' 0 48).setWidth 64 := by
  apply BitVec.eq_of_getLsbD_eq
  intro i hi
  rw [getLsbD_dividend, BitVec.getLsbD_setWidth, BitVec.getLsbD_extractLsb', Nat.zero_add, decide_eq_true hi,
    Bool.true_and]

/-- Values with the same payload leave the same final sum (R173). -/
theorem finalSum_congr {f g : Word} (h : f.extractLsb' 0 48 = g.extractLsb' 0 48) (p : Poly) :
    finalSum f p = finalSum g p := by
  rw [finalSum, finalSum, dividend_eq, dividend_eq, h]

theorem divides_iff {f : Word} {p : Poly} : divides f p = true ↔ finalSum f p = 0 := beq_iff_eq

/-- The selector's polynomial is read from the payload (R161). -/
theorem selectPoly_congr {f g : Word} (h : f.extractLsb' 0 48 = g.extractLsb' 0 48) (sel : Selector) :
    selectPoly f sel = selectPoly g sel := by
  have hsof (x : Word) : sofOf x = (x.extractLsb' 0 48).extractLsb' 44 4 :=
    (BitVec.extractLsb'_extractLsb'_of_le (by decide)).symm
  cases sel with
  | force p => rfl
  | auto => simp only [selectPoly, hsof, h]

theorem crcCheck_congr {f g : Word} (h : f.extractLsb' 0 48 = g.extractLsb' 0 48) (sel : Selector) :
    crcCheck f sel = crcCheck g sel := by
  rw [crcCheck, crcCheck, selectPoly_congr h, divides, divides, finalSum_congr h]

/-! ### Values whose high bits are clear -/

/-- All bits of `v` from `n` up are 0. -/
def FitsIn (n : Nat) (v : Word) : Prop := ∀ i, n ≤ i → v.getLsbD i = false

theorem fitsIn_setWidth {n : Nat} (x : BitVec n) : FitsIn n (x.setWidth 64) := fun i hi => by
  rw [BitVec.getLsbD_setWidth, BitVec.getLsbD_of_ge x i hi, Bool.and_false]

theorem fitsIn_dividend (f : Word) : FitsIn 48 (dividend f) := dividend_eq f ▸ fitsIn_setWidth _

theorem dividend_of_fitsIn {v : Word} (hv : FitsIn 48 v) : dividend v = v := by
  apply BitVec.eq_of_getLsbD_eq
  intro i _
  rw [getLsbD_dividend]
  by_cases h : i < 48
  · rw [decide_eq_true h, Bool.true_and]
  · rw [hv i (Nat.le_of_not_lt h), Bool.and_false]

/-- Clear bits on top are counted one by one. -/
theorem leadingZeros_add {h : Nat} {v : Word} (hv : FitsIn h v) (d : Nat) :
    leadingZeros (h + d) v = leadingZeros h v + d := by
  induction d with
  | zero => rfl
  | succ d ih =>
    rw [← Nat.add_assoc, leadingZeros, hv (h + d) (Nat.le_add_right h d), if_neg Bool.false_ne_true, ih,
      Nat.add_assoc]

/-- Against a divisor whose highest bit is `h`, the comparison of R166 is a test of bit `h` (R169). -/
theorem clz64_eq_iff {h : Nat} {v d : Word} (h64 : h < 64) (hv : FitsIn (h + 1) v) (hd : FitsIn (h + 1) d)
    (hbit : d.getLsbD h = true) : clz64 v = clz64 d ↔ v.getLsbD h = true := by
  have hclz {x : Word} (hx : FitsIn (h + 1) x) : clz64 x = leadingZeros (h + 1) x + (63 - h) := by
    rw [← leadingZeros_add hx, show h + 1 + (63 - h) = 64 by omega, clz64]
  rw [hclz hv, hclz hd, leadingZeros, leadingZeros, hbit]
  cases v.getLsbD h <;> simp

/-! ### The shifted polynomial -/

theorem getLsbD_shiftedPoly (p : Poly) (n i : Nat) :
    (polyWord p <<< n).getLsbD i = (decide (i < 64) && !decide (i < n) && p.getLsbD (i - n)) := by
  by_cases h : i < 64
  · simp [polyWord, h]
  · simp [h]

theorem toNat_shiftedPoly (p : Poly) {n : Nat} (hn : n ≤ 47) :
    (polyWord p <<< n).toNat = p.toNat * 2 ^ n := by
  have hlt : p.toNat * 2 ^ n < 2 ^ 64 := calc
    p.toNat * 2 ^ n < 2 ^ 17 * 2 ^ n := Nat.mul_lt_mul_of_pos_right p.isLt (Nat.two_pow_pos n)
    _ = 2 ^ (17 + n) := (Nat.pow_add 2 17 n).symm
    _ ≤ 2 ^ 64 := Nat.pow_le_pow_right (by decide) (by omega)
  have hp : p.toNat % 2 ^ 64 = p.toNat := Nat.mod_eq_of_lt (p.isLt.trans (by decide))
  rw [BitVec.toNat_shiftLeft, polyWord, BitVec.toNat_setWidth, hp, Nat.shiftLeft_eq, Nat.mod_eq_of_lt hlt]

theorem toNat_polyWord (p : Poly) : (polyWord p).toNat = p.toNat := by
  simpa using toNat_shiftedPoly p (Nat.zero_le 47)

theorem shiftedPoly_succ_ushiftRight (p : Poly) {n : Nat} (hn : n + 1 ≤ 47) :
    (polyWord p <<< (n + 1)) >>> 1 = polyWord p <<< n := by
  apply BitVec.eq_of_toNat_eq
  rw [BitVec.toNat_ushiftRight, toNat_shiftedPoly p hn, toNat_shiftedPoly p (by omega),
    Nat.shiftRight_one, Nat.pow_succ, ← Nat.mul_assoc, Nat.mul_div_left _ (by decide)]

theorem polyWord_le_shiftedPoly (p : Poly) {n : Nat} (hn : n ≤ 47) : polyWord p ≤ polyWord p <<< n := by
  rw [BitVec.le_def, toNat_shiftedPoly p hn, toNat_polyWord]
  exact Nat.le_mul_of_pos_right _ (Nat.two_pow_pos n)

theorem fitsIn_shiftedPoly (p : Poly) (n : Nat) : FitsIn (16 + n + 1) (polyWord p <<< n) := fun i hi => by
  rw [getLsbD_shiftedPoly, BitVec.getLsbD_of_ge p (i - n) (by omega), Bool.and_false]

theorem getLsbD_shiftedPoly_top {p : Poly} (hp : p.getLsbD 16 = true) {n : Nat} (hn : n ≤ 47) :
    (polyWord p <<< n).getLsbD (16 + n) = true := by
  rw [getLsbD_shiftedPoly, Nat.add_sub_cancel, hp, decide_eq_true (by omega : 16 + n < 64),
    decide_eq_false (by omega : ¬ 16 + n < n)]
  rfl

/-- A shifted polynomial has no term below its lowest one. -/
theorem getLsbD_shiftedPoly_low {p : Poly} {t : Nat} (ht : ∀ i < t, p.getLsbD i = false) {n i : Nat}
    (hi : i < n + t) : (polyWord p <<< n).getLsbD i = false := by
  rw [getLsbD_shiftedPoly]
  by_cases h : i < n
  · simp [h]
  · rw [ht (i - n) (by omega), Bool.and_false]

/-! ### The passes of the loop -/

/-- `n` passes of the loop body, with the divisors `p << k` for `k` from `n - 1` down to 0 (R168). -/
def passes (p : Poly) : Nat → Word → Word
  | 0, v => v
  | n + 1, v => passes p n (divideSum v (polyWord p <<< n))

theorem passes_eq_foldl (p : Poly) (n : Nat) (v : Word) :
    passes p n v = (List.range n).foldl (fun sum j => divideSum sum (polyWord p <<< (n - 1 - j))) v := by
  induction n generalizing v with
  | zero => rfl
  | succ n ih =>
    rw [passes, ih, List.range_succ_eq_map, List.foldl_cons, List.foldl_map]
    simp only [Nat.add_sub_cancel, Nat.sub_zero, Nat.succ_eq_add_one, Nat.sub_sub, Nat.add_comm 1]

section admitted
variable {p : Poly} (hp : p.getLsbD 16 = true)
include hp

/-- Below the polynomial itself the loop stops. -/
theorem not_polyWord_le_half : ¬ polyWord p ≤ (polyWord p <<< 0) >>> 1 := by
  have hne : p.toNat ≠ 0 := fun h => by
    rw [BitVec.eq_of_toNat_eq (y := 0#17) h] at hp
    exact absurd hp (by decide)
  rw [BitVec.le_def, BitVec.shiftLeft_zero, BitVec.toNat_ushiftRight, Nat.shiftRight_one, toNat_polyWord]
  omega

/-- Entered with the divisor `p << n` halved, the loop makes `n` passes and stops (R168). -/
theorem divideLoop_eq_passes (fuel : Nat) {n : Nat} (hn : n ≤ 47) (v : Word) :
    divideLoop (fuel + n + 1) (polyWord p) v ((polyWord p <<< n) >>> 1) = passes p n v := by
  induction n generalizing v with
  | zero => rw [divideLoop, if_neg (not_polyWord_le_half hp), passes]
  | succ n ih =>
    rw [← Nat.add_assoc, divideLoop, shiftedPoly_succ_ushiftRight p hn,
      if_pos (polyWord_le_shiftedPoly p (Nat.le_of_succ_le hn)), ih (Nat.le_of_succ_le hn), passes]

/-- The loop of R166 makes 32 passes (R168). -/
theorem finalSum_eq_passes (f : Word) : finalSum f p = passes p 32 (dividend f) := by
  have hstart : initialDivisor p = (polyWord p <<< 32) >>> 1 :=
    (shiftedPoly_succ_ushiftRight p (by decide)).symm
  rw [finalSum, hstart]
  exact divideLoop_eq_passes hp 31 (by decide) (dividend f)

end admitted

/-- Settles O36: the passes of the loop as a fold. -/
theorem divisionMakesThirtyTwoPasses : Obligations.DivisionMakesThirtyTwoPasses := fun f p hp =>
  (finalSum_eq_passes hp f).trans (passes_eq_foldl p 32 (dividend f))

/-! ### The reduction: each pass cancels one fixed bit -/

/-- One pass as a test of a fixed bit: where bit `16 + n` of `v` is set, `p << n` is subtracted (R169). -/
def cancelBit (p : Poly) (n : Nat) (v : Word) : Word :=
  if v.getLsbD (16 + n) then v ^^^ polyWord p <<< n else v

/-- The bits `15 + n .. 16` of `v` cancelled, highest first (R169). -/
def reduced (p : Poly) : Nat → Word → Word
  | 0, v => v
  | n + 1, v => reduced p n (cancelBit p n v)

theorem getLsbD_cancelBit (p : Poly) (n : Nat) (v : Word) (i : Nat) :
    (cancelBit p n v).getLsbD i =
      (v.getLsbD i ^^ (v.getLsbD (16 + n) && (polyWord p <<< n).getLsbD i)) := by
  unfold cancelBit
  split
  next h => rw [BitVec.getLsbD_xor, h, Bool.true_and]
  next h => rw [Bool.eq_false_of_not_eq_true h, Bool.false_and, Bool.xor_false]

theorem cancelBit_xor (p : Poly) (n : Nat) (u v : Word) :
    cancelBit p n (u ^^^ v) = cancelBit p n u ^^^ cancelBit p n v := by
  apply BitVec.eq_of_getLsbD_eq
  intro i _
  simp only [getLsbD_cancelBit, BitVec.getLsbD_xor, Bool.and_xor_distrib_right, Bool.xor_assoc,
    Bool.xor_left_comm]

/-- The reduction is linear (R175). -/
theorem reduced_xor (p : Poly) (n : Nat) (u v : Word) :
    reduced p n (u ^^^ v) = reduced p n u ^^^ reduced p n v := by
  induction n generalizing u v with
  | zero => rfl
  | succ n ih => rw [reduced, cancelBit_xor, ih, reduced, reduced]

/-- Cancelling bits that are clear already changes nothing. -/
theorem reduced_of_fitsIn (p : Poly) {m n : Nat} (hmn : m ≤ n) {v : Word} (hv : FitsIn (16 + m) v) :
    reduced p n v = reduced p m v := by
  induction n, hmn using Nat.le_induction with
  | base => rfl
  | succ n hmn ih =>
    rw [reduced, cancelBit, hv (16 + n) (Nat.add_le_add_left hmn 16), if_neg Bool.false_ne_true, ih]

/-- The reduction leaves the bits below the polynomial's lowest term alone (R175). -/
theorem getLsbD_reduced_low {p : Poly} {t : Nat} (ht : ∀ i < t, p.getLsbD i = false) (n : Nat) (v : Word)
    {i : Nat} (hi : i < t) : (reduced p n v).getLsbD i = v.getLsbD i := by
  induction n generalizing v with
  | zero => rfl
  | succ n ih =>
    rw [reduced, ih, getLsbD_cancelBit, getLsbD_shiftedPoly_low ht (Nat.lt_add_left n hi), Bool.and_false,
      Bool.xor_false]

section admitted
variable {p : Poly} (hp : p.getLsbD 16 = true)
include hp

/-- The bit a pass tests is clear after it. -/
theorem fitsIn_cancelBit {n : Nat} (hn : n ≤ 47) {v : Word} (hv : FitsIn (16 + n + 1) v) :
    FitsIn (16 + n) (cancelBit p n v) := fun i hi => by
  rw [getLsbD_cancelBit]
  rcases Nat.eq_or_lt_of_le hi with rfl | hlt
  · rw [getLsbD_shiftedPoly_top hp hn, Bool.and_true, Bool.xor_self]
  · rw [hv i hlt, fitsIn_shiftedPoly p n i hlt, Bool.and_false, Bool.xor_false]

/-- The comparison of leading-zero counts in R166 is the test of the fixed bit (R169). -/
theorem divideSum_eq_cancelBit {n : Nat} (hn : n ≤ 47) {v : Word} (hv : FitsIn (16 + n + 1) v) :
    divideSum v (polyWord p <<< n) = cancelBit p n v :=
  if_congr (clz64_eq_iff (by omega) hv (fitsIn_shiftedPoly p n) (getLsbD_shiftedPoly_top hp hn)) rfl rfl

theorem passes_eq_reduced {n : Nat} (hn : n ≤ 48) {v : Word} (hv : FitsIn (16 + n) v) :
    passes p n v = reduced p n v := by
  induction n generalizing v with
  | zero => rfl
  | succ n ih =>
    rw [passes, divideSum_eq_cancelBit hp (Nat.le_of_succ_le_succ hn) hv,
      ih (Nat.le_of_succ_le hn) (fitsIn_cancelBit hp (Nat.le_of_succ_le_succ hn) hv), reduced]

/-- The division reduces the dividend (R169). -/
theorem finalSum_eq_reduced (f : Word) : finalSum f p = reduced p 32 (dividend f) :=
  (finalSum_eq_passes hp f).trans (passes_eq_reduced hp (by decide) (fitsIn_dividend f))

end admitted

/-! ### The shift register -/

/-- The register's value above the bits of `f` it has still to take in (R170). -/
def registerAbove (n : Nat) (r : BitVec 16) (f : Word) : Word := (r ++ f.setWidth n).setWidth 64

theorem getLsbD_registerAbove (n : Nat) (r : BitVec 16) (f : Word) (i : Nat) :
    (registerAbove n r f).getLsbD i =
      (decide (i < 64) && if i < n then f.getLsbD i else r.getLsbD (i - n)) := by
  rw [registerAbove, BitVec.getLsbD_setWidth, BitVec.getLsbD_append]
  split
  next h => rw [BitVec.getLsbD_setWidth, decide_eq_true h, Bool.true_and]
  next => rfl

theorem getLsbD_remainderStep (p : Poly) (r : BitVec 16) (b : Bit) (i : Nat) :
    (remainderStep p r b).getLsbD i =
      (decide (i < 16) && ((if i = 0 then b else r.getLsbD (i - 1)) ^^ (r.getLsbD 15 && p.getLsbD i))) := by
  have hshift : (r <<< 1 ||| if b then 1#16 else 0#16).getLsbD i =
      (decide (i < 16) && if i = 0 then b else r.getLsbD (i - 1)) := by
    cases i <;> cases b <;> simp
  have hlow : (p.extractLsb' 0 16).getLsbD i = (decide (i < 16) && p.getLsbD i) := by
    rw [BitVec.getLsbD_extractLsb', Nat.zero_add]
  unfold remainderStep
  cases r.getLsbD 15
  · simp [hshift]
  · simp [hshift, hlow, Bool.and_xor_distrib_left]

theorem fitsIn_registerAbove (n : Nat) (r : BitVec 16) (f : Word) :
    FitsIn (16 + n) (registerAbove n r f) := fun i hi => by
  rw [getLsbD_registerAbove, if_neg (by omega), BitVec.getLsbD_of_ge r _ (by omega), Bool.and_false]

section admitted
variable {p : Poly} (hp : p.getLsbD 16 = true)
include hp

/-- Cancelling the bit above the register's top is one step of the register (R170). -/
theorem cancelBit_registerAbove {n : Nat} (hn : n ≤ 47) (r : BitVec 16) (f : Word) :
    cancelBit p n (registerAbove (n + 1) r f) = registerAbove n (remainderStep p r (f.getLsbD n)) f := by
  have htest : (registerAbove (n + 1) r f).getLsbD (16 + n) = r.getLsbD 15 := by
    rw [getLsbD_registerAbove, decide_eq_true (show 16 + n < 64 by omega), Bool.true_and,
      if_neg (by omega), show 16 + n - (n + 1) = 15 by omega]
  apply BitVec.eq_of_getLsbD_eq
  intro i hi
  by_cases htop : 16 + n ≤ i
  · rw [fitsIn_cancelBit hp hn (fitsIn_registerAbove (n + 1) r f) i htop,
      fitsIn_registerAbove n _ f i htop]
  rw [getLsbD_cancelBit, htest, getLsbD_registerAbove, getLsbD_registerAbove, getLsbD_remainderStep,
    getLsbD_shiftedPoly]
  rcases Nat.lt_trichotomy i n with hlt | rfl | hgt
  · simp [hlt, Nat.lt_succ_of_lt hlt]
  · simp [hi]
  · have hprev : i - (n + 1) = i - n - 1 := by omega
    simp [hi, hprev, show ¬ i < n + 1 by omega, show ¬ i < n by omega, show i - n ≠ 0 by omega,
      show i - n < 16 by omega]

theorem reduced_registerAbove {n : Nat} (hn : n ≤ 48) (r : BitVec 16) (f : Word) :
    reduced p n (registerAbove n r f) = (remainderFrom n f p r).setWidth 64 := by
  induction n generalizing r with
  | zero =>
    apply BitVec.eq_of_getLsbD_eq
    intro i hi
    rw [reduced, getLsbD_registerAbove, remainderFrom, BitVec.getLsbD_setWidth, if_neg (Nat.not_lt_zero i),
      Nat.sub_zero]
  | succ n ih =>
    rw [reduced, cancelBit_registerAbove hp (Nat.le_of_succ_le_succ hn), ih (Nat.le_of_succ_le hn),
      remainderFrom]

/-- The division leaves the remainder of the shift register (R170). -/
theorem finalSum_eq_remainder16 (f : Word) : finalSum f p = (remainder16 f p).setWidth 64 := by
  have hempty : dividend f = registerAbove 48 0 f := by
    apply BitVec.eq_of_getLsbD_eq
    intro i hi
    rw [getLsbD_dividend, getLsbD_registerAbove, decide_eq_true hi]
    by_cases h : i < 48 <;> simp [h]
  rw [finalSum_eq_reduced hp, ← reduced_of_fitsIn p (by decide : 32 ≤ 48) (fitsIn_dividend f), hempty,
    reduced_registerAbove hp le_rfl, remainder16]

end admitted

theorem setWidth64_inj {a b : BitVec 16} : a.setWidth 64 = b.setWidth 64 ↔ a = b :=
  ⟨fun h => by simpa using congrArg (BitVec.setWidth 16) h, congrArg _⟩

/-- Settles O37: the final sum is the register's value, so the one is zero when the other is. -/
theorem divisionEqualsShiftRegister : Obligations.DivisionEqualsShiftRegister := by
  intro f p hp
  have hsum := finalSum_eq_remainder16 hp f
  refine ⟨hsum, ?_⟩
  rw [divides, hsum, Bool.eq_iff_iff, beq_iff_eq, beq_iff_eq]
  exact setWidth64_inj (b := 0)

/-! ### Valid values -/

section admitted
variable {p : Poly} (hp : p.getLsbD 16 = true)
include hp

theorem finalSum_xor (f g : Word) : finalSum (f ^^^ g) p = finalSum f p ^^^ finalSum g p := by
  have hdiv : dividend (f ^^^ g) = dividend f ^^^ dividend g := by
    apply BitVec.eq_of_getLsbD_eq
    intro i _
    simp only [getLsbD_dividend, BitVec.getLsbD_xor, Bool.and_xor_distrib_left]
  rw [finalSum_eq_reduced hp, finalSum_eq_reduced hp, finalSum_eq_reduced hp, hdiv, reduced_xor]

/-- A valid value changed by `g` is valid exactly when `g` is (R175). -/
theorem divides_xor_of_divides {f : Word} (hf : divides f p = true) (g : Word) :
    divides (f ^^^ g) p = divides g p := by
  rw [divides, finalSum_xor hp, divides_iff.1 hf, divides]
  exact congrArg (· == 0) BitVec.zero_xor

/-- A value that fits in the check bits is its own remainder. -/
theorem finalSum_of_fitsIn {v : Word} (hv : FitsIn 16 v) : finalSum v p = v := by
  have hdiv : dividend v = v := dividend_of_fitsIn fun i hi => hv i (by omega)
  rw [finalSum_eq_reduced hp, hdiv, reduced_of_fitsIn p (Nat.zero_le 32) hv, reduced]

end admitted

/-- Settles O40: a valid value leaves the answer on the other as it is. -/
theorem checkIsLinear : Obligations.CheckIsLinear := fun _ g _ hp hf hg =>
  (divides_xor_of_divides hp hf g).trans hg

/-- A nonzero value with no bit below the lowest term `n + t` of any divisor does not reduce to zero: a pass that
subtracts leaves its divisor's lowest term set. -/
theorem reduced_ne_zero_of_low {p : Poly} {t : Nat} (ht : t < 16) (hlow : ∀ i < t, p.getLsbD i = false)
    (hbit : p.getLsbD t = true) {n : Nat} (hn : n ≤ 48) {v : Word} (hne : v ≠ 0)
    (hv : ∀ i < n + t, v.getLsbD i = false) : reduced p n v ≠ 0 := by
  induction n generalizing v with
  | zero => exact hne
  | succ n ih =>
    refine ih (Nat.le_of_succ_le hn) (fun hzero => ?_) fun i hi => ?_
    · have hset : (cancelBit p n v).getLsbD (n + t) = v.getLsbD (16 + n) := by
        rw [getLsbD_cancelBit, hv (n + t) (by omega), getLsbD_shiftedPoly, Nat.add_sub_cancel_left, hbit,
          decide_eq_true (by omega : n + t < 64), decide_eq_false (by omega : ¬ n + t < n)]
        simp
      have hclear : v.getLsbD (16 + n) = false := by rw [← hset, hzero]; exact BitVec.getLsbD_zero
      rw [cancelBit, hclear, if_neg Bool.false_ne_true] at hzero
      exact hne hzero
    · rw [getLsbD_cancelBit, hv i (by omega), getLsbD_shiftedPoly_low hlow hi, Bool.and_false, Bool.xor_false]

/-- An admitted polynomial of two or more terms has a lowest one below bit 16. -/
theorem exists_lowest_term {p : Poly} (hp : p.getLsbD 16 = true) (hterms : p ≠ 0x10000#17) :
    ∃ t < 16, p.getLsbD t = true ∧ ∀ i < t, p.getLsbD i = false := by
  have hex : ∃ t, t < 16 ∧ p.getLsbD t = true := by
    by_contra! hnone
    refine hterms (BitVec.eq_of_getLsbD_eq fun i hi => ?_)
    rw [show 0x10000#17 = BitVec.twoPow 17 16 from rfl, BitVec.getLsbD_twoPow]
    rcases Nat.lt_or_eq_of_le (Nat.le_of_lt_succ hi) with hlt | rfl
    · simp [hnone i hlt, Nat.ne_of_gt hlt]
    · exact hp
  obtain ⟨ht, hbit⟩ := Nat.find_spec hex
  refine ⟨Nat.find hex, ht, hbit, fun i hi => ?_⟩
  exact Bool.eq_false_iff.2 fun h => Nat.find_min hex hi ⟨hi.trans ht, h⟩

/-- A single bit does not reduce to zero by a polynomial of two or more terms: the pass that meets it leaves no
bit below its divisor's lowest term (R175). -/
theorem reduced_twoPow_ne_zero {p : Poly} (hp : p.getLsbD 16 = true) (hterms : p ≠ 0x10000#17) {n k : Nat}
    (hn : n ≤ 48) (hk : k < 64) : reduced p n (BitVec.twoPow 64 k) ≠ 0 := by
  have hne : BitVec.twoPow 64 k ≠ 0 := fun h => by
    simpa [BitVec.getLsbD_twoPow, hk] using congrArg (BitVec.getLsbD · k) h
  obtain ⟨t, ht, hbit, hmin⟩ := exists_lowest_term hp hterms
  induction n with
  | zero => exact hne
  | succ n ih =>
    by_cases htop : k = 16 + n
    · refine reduced_ne_zero_of_low ht hmin hbit hn hne fun i hi => ?_
      rw [BitVec.getLsbD_twoPow, decide_eq_false (by omega : ¬ k = i), Bool.and_false]
    · rw [reduced, cancelBit, BitVec.getLsbD_twoPow, decide_eq_false htop, Bool.and_false,
        if_neg Bool.false_ne_true]
      exact ih (Nat.le_of_succ_le hn)

/-- Settles O41: the changed value is valid when the changed bit alone is. -/
theorem singleBitErrorIsFound : Obligations.SingleBitErrorIsFound := by
  intro f p k hp hterms hf hk
  have hpow : ((1 <<< k : Nat) : Word) = BitVec.twoPow 64 k :=
    BitVec.eq_of_toNat_eq (by simp [Nat.one_shiftLeft])
  have hdiv : dividend (BitVec.twoPow 64 k) = BitVec.twoPow 64 k := dividend_of_fitsIn fun i hi => by
    rw [BitVec.getLsbD_twoPow, decide_eq_false (by omega : ¬ k = i), Bool.and_false]
  rw [divides_xor_of_divides hp hf, hpow, divides, finalSum_eq_reduced hp, hdiv]
  exact beq_eq_false_iff_ne.2 (reduced_twoPow_ne_zero hp hterms (by decide) (by omega))

/-- Settles O43: the check bits are the final sum of the message alone, which they cancel. -/
theorem checkBitsAreUnique : Obligations.CheckBitsAreUnique := by
  intro m p c hp
  have hpayload : (0xFFFE#16 ++ m ++ c).extractLsb' 0 48 =
      ((m ++ 0#16).setWidth 64 ^^^ c.setWidth 64).extractLsb' 0 48 := by
    apply BitVec.eq_of_getLsbD_eq
    intro i hi
    simp only [BitVec.getLsbD_extractLsb', BitVec.getLsbD_xor, BitVec.getLsbD_setWidth, BitVec.getLsbD_append,
      Nat.zero_add]
    by_cases h16 : i < 16
    · simp [h16, show i < 64 by omega]
    · simp [h16, show i < 64 by omega, show i - 16 < 32 by omega, BitVec.getLsbD_of_ge c i (by omega)]
  have hcheck : finalSum ((m ++ 0#16).setWidth 64) p = (checkBits m p).setWidth 64 := by
    rw [checkBits, finalSum_eq_remainder16 hp, BitVec.extractLsb'_setWidth_of_le (by decide),
      BitVec.extractLsb'_eq_self]
  rw [divides, finalSum_congr hpayload, finalSum_xor hp, hcheck, finalSum_of_fitsIn hp (fitsIn_setWidth c),
    Bool.eq_iff_iff, beq_iff_eq, beq_iff_eq, eq_comm (a := c)]
  exact BitVec.xor_eq_zero_iff.trans setWidth64_inj

/-- Settles O42: no pass touches bits 3..0, for 0x18050 has no term there. -/
theorem twoGigCheckNeedsZeroNibble : Obligations.TwoGigCheckNeedsZeroNibble := by
  intro f hnibble
  have hfails : divides f 0x18050#17 = false := by
    refine Bool.eq_false_iff.2 fun hf => hnibble (BitVec.eq_of_getLsbD_eq fun i hi => ?_)
    have hkeep := getLsbD_reduced_low (p := 0x18050#17) (t := 4) (by decide) 32 (dividend f) hi
    rw [← finalSum_eq_reduced (by decide), divides_iff.1 hf, getLsbD_dividend,
      decide_eq_true (show i < 48 by omega), Bool.true_and] at hkeep
    simpa [hi] using hkeep.symm
  exact ⟨hfails, hfails⟩

/-! ### The check -/

/-- Settles O38: polynomial and final sum are those of the payload. -/
theorem checkIgnoresSyncBits : Obligations.CheckIgnoresSyncBits := by
  intro f g sel h
  refine ⟨crcCheck_congr h sel, fun s x p => ⟨?_, ?_⟩⟩
  · simp only [exec, execCrcAuto, crcCheck_congr h]
  · simp only [exec, execCrcForce, crcCheck_congr h]

/-- Both polynomials of the brand table are admitted (R162 to R165). -/
theorem selectPoly_auto_admitted (f : Word) : (selectPoly f .auto).getLsbD 16 = true := by
  rw [selectPoly, brandTable_polyUsed]
  split <;> rfl

/-- Settles O39: the zero payload reduces to zero. -/
theorem zeroPayloadPasses : Obligations.ZeroPayloadPasses := by
  intro f p hp h0
  have hzero {q : Poly} (hq : q.getLsbD 16 = true) : divides f q = true := by
    rw [divides_iff, finalSum_congr (g := 0) h0]
    exact finalSum_of_fitsIn hq fun _ _ => BitVec.getLsbD_zero
  exact ⟨hzero (selectPoly_auto_admitted f), hzero hp⟩

/-- The outputs of a frame event come from the row the brand table gives (R161, R192). -/
theorem frameEvent_of_brandTable {f : Word} {x : Selection} (h : brandTable (sofOf f) = x) :
    (frameEvent f).brand.code = x.brand.code ∧ (frameEvent f).polyUsed = x.polyUsed ∧
      (frameEvent f).polyAssumed = x.polyAssumed ∧ crcCheck f .auto = divides f x.polyUsed := by
  subst h
  exact ⟨rfl, rfl, rfl, rfl⟩

/-- The brand table's four rows (R77). -/
theorem brandTable_rows : ∀ sof : BitVec 4,
    (sof ∈ [0x2#4, 0x3#4, 0x4#4, 0x7#4, 0x9#4, 0xA#4, 0xB#4, 0xC#4, 0xF#4] →
      brandTable sof = selection2gig) ∧
    (sof = 0x8#4 → brandTable sof = selectionHoneywell) ∧
    (sof ∈ [0xD#4, 0xE#4] → brandTable sof = selectionVivint) ∧
    (sof ∈ [0x0#4, 0x1#4, 0x5#4, 0x6#4] → brandTable sof = selectionOther) := by decide

/-- Settles O32: the row of the brand table gives the four outputs. -/
theorem brandTableOnFrameEvent : Obligations.BrandTableOnFrameEvent := by
  intro f
  obtain ⟨h2gig, hhoneywell, hvivint, hother⟩ := brandTable_rows (sofOf f)
  exact ⟨fun h => frameEvent_of_brandTable (h2gig h), fun h => frameEvent_of_brandTable (hhoneywell h),
    fun h => frameEvent_of_brandTable (hvivint h), fun h => frameEvent_of_brandTable (hother h)⟩

/-- Settles O34: both rows present the check, and under AUTO the brand table gives the polynomial. -/
theorem crcRowsAnswerDivision : Obligations.CrcRowsAnswerDivision := by
  refine fun s f => ⟨?_, fun p hp => if_pos hp⟩
  rintro x ok rfl
  rw [← brandTable_polyUsed]
  rfl

end Sys2Proof.Machine

/-!
SUPPORT. The statements on the four stages composed (44_pipeline.md): what a sample's strobes imply, and that
what the block delivers on a stream of valid samples is the framer's frames on the decoder's bits on the
recoverer's chips. The chips of a transmission are its symbols' own, and so its data bits are the frame's.
-/

namespace Sys2Proof.Machine

/-! ### The strobes of a sample's step -/

/-- Without a data bit the framer delivers nothing (R140). -/
theorem bit_of_frame_framerResult {r : Word} {bit : Option Bit} (h : (framerResult r bit).2.isSome = true) :
    bit.isSome = true := by
  cases bit with
  | none => exact h
  | some d => rfl

/-- Without a chip the decoder emits nothing (R120). -/
theorem chip_of_bit_decoderResult {m : MState} {chip : Option Bit}
    (h : (decoderResult m chip).2.isSome = true) : chip.isSome = true := by
  cases chip with
  | none => exact h
  | some c => rfl

/-- The recoverer emits the level it was handed, and only where that was the level before (R100). -/
theorem level_of_chip_recovererResult {last : Bit} {count spb : Nat} {level : Option Bit} {c : Bit}
    (h : (recovererResult last count spb level).2.2 = some c) : level = some c ∧ last = c := by
  cases level with
  | none => cases h
  | some v =>
    by_cases hv : last = v
    · have hchip : (if chipDue spb (count + 1) then some v else none) = some c := by
        simpa [recovererResult, hv] using h
      obtain ⟨-, rfl⟩ : chipDue spb (count + 1) = true ∧ v = c := by simpa using hchip
      exact ⟨rfl, hv⟩
    · simp [recovererResult, hv] at h

/-- Only the byte of a level hands it to the recoverer (R71). -/
theorem eq_levelByte_of_sampleLevel {b : Byte} {v : Bit} (h : sampleLevel b = some v) : b = levelByte v := by
  rcases byte_cases b with ⟨u, rfl⟩ | ⟨h0, h1⟩
  · rw [sampleLevel_levelByte] at h
    rw [Option.some.inj h]
  · rw [sampleLevel_of_invalid h0 h1] at h
    cases h

/-- Settles O49, stage by stage: on a sample each stage acts on what the stage before it emitted. -/
theorem frameImpliesBitImpliesChip : Obligations.FrameImpliesBitImpliesChip := by
  intro s t b rest hi h
  have hrec := recoverer_step h
  have hdec := decoder_step h
  have hframe := framer_step h
  rw [hi] at hrec hdec hframe
  refine ⟨fun hf => ?_, fun hb => ?_, fun c hc => ?_⟩
  · exact bit_of_frame_framerResult (congrArg (·.2.isSome) hframe.symm |>.trans hf)
  · exact chip_of_bit_decoderResult (congrArg (·.2.isSome) hdec.symm |>.trans hb)
  · obtain ⟨hlevel, hlast⟩ := level_of_chip_recovererResult (congrArg (·.2.2) hrec.symm |>.trans hc)
    exact ⟨eq_levelByte_of_sampleLevel hlevel, hlast⟩

/-! ### The stages composed over a stream of valid samples -/

/-- The chips the recoverer emits on samples of these levels (R100). -/
def recoveredChips (spb : Nat) : Bit → Nat → List Bit → List Bit
  | _, _, [] => []
  | last, count, v :: vs =>
    let (last', count', chip) := recovererResult last count spb (some v)
    chip.toList ++ recoveredChips spb last' count' vs

/-- The decoder's bits go on from what the first chip, if there is one, left. -/
theorem decodedBits_toList_append (m : MState) (chip : Option Bit) (cs : List Bit) :
    decodedBits m (chip.toList ++ cs) =
      (decoderResult m chip).2.toList ++ decodedBits (decoderResult m chip).1 cs := by
  cases chip <;> rfl

/-- The framer's frames go on from what the first data bit, if there is one, left. -/
theorem frames_toList_append (r : Word) (bit : Option Bit) (ds : List Bit) :
    (framedBits r (bit.toList ++ ds)).2 =
      (framerResult r bit).2.toList ++ (framedBits (framerResult r bit).1 ds).2 := by
  cases bit <;> rfl

/-- The block on a stream of valid samples is the composition of its stages (R190): each is a function of
its own state and of what the stage before it emits. -/
theorem frames_of_levels {s : State} {vs : List Bit} {rest : List Event} (h4 : 4 ≤ s.spb)
    (hi : s.input = vs.map sampleOf ++ rest) :
    framesIn (observed vs.length s) =
      (framedBits s.sreg (decodedBits s.mstate
        (recoveredChips s.spb s.lastSample s.samplesSinceEdge vs))).2 := by
  induction vs generalizing s with
  | nil => rfl
  | cons v vs ih =>
    have hi : s.input = sampleOf v :: (vs.map sampleOf ++ rest) := hi
    have hstep := step_sampleOf h4 hi
    generalize (s.setInput (vs.map sampleOf ++ rest)).quiet.recover v = t at hstep
    have hti : t.input = vs.map sampleOf ++ rest := by rw [input_step hstep, hi, List.tail_cons]
    have hspb := spb_step hstep
    have hrec : (t.lastSample, t.samplesSinceEdge, t.out.chip) =
        recovererResult s.lastSample s.samplesSinceEdge s.spb (some v) := by
      rw [recoverer_step hstep, hi, ← sampleLevel_levelByte v]
      rfl
    have hdec : (t.mstate, t.out.bit) = decoderResult s.mstate t.out.chip := by
      rw [decoder_step hstep, hi]
      rfl
    have hframe : (t.sreg, t.out.frame) = framerResult s.sreg t.out.bit := by
      rw [framer_step hstep, hi]
      rfl
    rw [List.length_cons, observed_succ hstep, framesIn_cons, ih (hspb ▸ h4) hti, recoveredChips, ← hrec,
      decodedBits_toList_append, ← hdec, frames_toList_append, ← hframe, hspb]

/-! ### The chips of nominal runs -/

section runs
variable {spb : Nat} {last : Bit}

/-- The recoverer reads the counter through its residue only (R22). -/
theorem recoveredChips_congr {m n : Nat} (h : m ≡ n [MOD spb]) (vs : List Bit) :
    recoveredChips spb last m vs = recoveredChips spb last n vs := by
  induction vs generalizing last m n with
  | nil => rfl
  | cons v vs ih =>
    have hnext : m + 1 ≡ n + 1 [MOD spb] := h.add_right 1
    have hdue : chipDue spb (m + 1) = chipDue spb (n + 1) := by
      rw [chipDue, chipDue, show (m + 1) % spb = (n + 1) % spb from hnext]
    by_cases hv : last = v
    · simp [recoveredChips, recovererResult, hv, hdue, ih hnext]
    · simp [recoveredChips, recovererResult, hv]

/-- Within a run the chips stand at its sampling instants (R105). -/
theorem recoveredChips_sameLevel (v : Bit) (count L : Nat) (vs : List Bit) :
    recoveredChips spb v count (List.replicate L v ++ vs) =
      (List.range' (count + 1) L).filterMap (runChip spb v) ++ recoveredChips spb v (count + L) vs := by
  induction L generalizing count with
  | zero => rfl
  | succ L ih =>
    rw [List.replicate_succ, List.cons_append, recoveredChips, recovererResult, if_pos rfl]
    simp only [ih, List.range'_succ, Nat.add_assoc, Nat.add_comm 1 L]
    cases hd : chipDue spb (count + 1) <;> simp [runChip, hd]

/-- The chips of a run from its start, and those that follow it (R105). -/
theorem recoveredChips_run (h4 : 4 ≤ spb) {count L : Nat} {v : Bit} (h : last ≠ v ∨ count = 0) (hL : 0 < L)
    (vs : List Bit) : recoveredChips spb last count (List.replicate L v ++ vs) =
      List.replicate (chipCount spb L) v ++ recoveredChips spb v L vs := by
  obtain ⟨k, rfl⟩ := Nat.exists_eq_add_one.2 hL
  have hstart : recoveredChips spb last count (List.replicate (k + 1) v ++ vs) =
      recoveredChips spb v 0 (List.replicate (k + 1) v ++ vs) := by
    rw [List.replicate_succ, List.cons_append, recoveredChips, recoveredChips,
      recovererResult_runStart h4 h, recovererResult_runStart h4 (.inr rfl)]
  rw [hstart, recoveredChips_sameLevel, filterMap_runChip h4, Nat.zero_add]

/-- A nominal chip at a run's start is recovered as itself, and leaves a counter that stands for 0 (R105). -/
theorem recoveredChips_chip (h4 : 4 ≤ spb) {count : Nat} {c : Bit} (h : last ≠ c ∨ count = 0)
    (vs : List Bit) :
    recoveredChips spb last count (List.replicate spb c ++ vs) = c :: recoveredChips spb c 0 vs := by
  have hone : chipCount spb spb = 1 := by
    rw [chipCount, if_neg (by omega), Nat.div_eq_of_lt (by omega)]
  have hwrap : spb ≡ 0 [MOD spb] := by simp [Nat.ModEq]
  rw [recoveredChips_run h4 h (by omega), hone, recoveredChips_congr hwrap]
  rfl

/-- Nominal chips are recovered as themselves. -/
theorem recoveredChips_chips (h4 : 4 ≤ spb) (cs vs : List Bit) :
    recoveredChips spb last 0 (cs.flatMap (List.replicate spb) ++ vs) =
      cs ++ recoveredChips spb (cs.getLastD last) 0 vs := by
  induction cs generalizing last with
  | nil => rfl
  | cons c cs ih =>
    rw [List.flatMap_cons, List.append_assoc, recoveredChips_chip h4 (.inr rfl), ih, List.getLastD_cons,
      List.cons_append]

end runs

/-! ### A transmission -/

/-- The levels of `n` idle samples, the symbols of these data bits and `m` further idle samples (R83). -/
def transmissionLevels (spb n m : Nat) (ds : List Bit) : List Bit :=
  List.replicate n false ++ (ds.flatMap symbol).flatMap (List.replicate spb) ++ List.replicate m false

/-- The model's idle samples and symbols present these levels. -/
theorem map_transmissionLevels (spb n m : Nat) (ds : List Bit) :
    (transmissionLevels spb n m ds).map sampleOf =
      idleSamples n ++ ds.flatMap (symbolSamples spb) ++ idleSamples m := by
  have hsymbol (d : Bit) : (symbol d).flatMap (fun c => List.replicate spb (sampleOf c)) =
      symbolSamples spb d := by
    simp [symbol, symbolSamples, chipSamples, runOf]
  simp [transmissionLevels, List.map_flatMap, List.flatMap_assoc, hsymbol, idleSamples, runOf]

theorem length_transmissionLevels (spb n m : Nat) (ds : List Bit) :
    (transmissionLevels spb n m ds).length = n + 2 * ds.length * spb + m := by
  have hchips (cs : List Bit) : (cs.flatMap (List.replicate spb)).length = cs.length * spb := by
    simp [List.length_flatMap]
  simp only [transmissionLevels, List.length_append, List.length_replicate, hchips, length_flatMap_symbol]

/-- The first symbol's low chip lengthens the idle run; from its edge on every chip is nominal, and the idle
samples at the end are a run of their own (R105). -/
theorem recoveredChips_transmission {spb : Nat} (h4 : 4 ≤ spb) (n : Nat) {m : Nat} (hpos : 0 < m)
    (ds : List Bit) :
    recoveredChips spb false 0 (transmissionLevels spb n m (true :: ds)) =
      List.replicate (chipCount spb (n + spb)) false ++ true :: (ds.flatMap symbol ++
        List.replicate (chipCount spb m) false) := by
  have hlevels : transmissionLevels spb n m (true :: ds) = List.replicate (n + spb) false ++
      (List.replicate spb true ++ ((ds.flatMap symbol).flatMap (List.replicate spb) ++
        List.replicate m false)) := by
    simp [transmissionLevels, symbol, ← List.replicate_append_replicate]
  have hidle (last : Bit) : recoveredChips spb last 0 (List.replicate m false) =
      List.replicate (chipCount spb m) false := by
    simpa [recoveredChips] using recoveredChips_run h4 (last := last) (.inr rfl) hpos []
  rw [hlevels, recoveredChips_run h4 (.inr rfl) (by omega), recoveredChips_chip h4 (.inl (by decide)),
    recoveredChips_chips h4, hidle]

/-- Chips of the decoder's own level, with nothing pending, yield nothing (R121, R126). -/
theorem decodedBits_steady (c : Bit) (k : Nat) (cs : List Bit) :
    decodedBits (levelState c) (List.replicate k c ++ cs) = decodedBits (levelState c) cs := by
  induction k with
  | zero => rfl
  | succ k ih =>
    rw [List.replicate_succ, List.cons_append, decodedBits, pendingBit_levelState,
      nextMState_levelState_same, ih]
    rfl

/-- Idle chips release a pending data bit with the first of them, and yield nothing more (R131). -/
theorem decodedBits_pending_idle (d : Bit) (j : Nat) :
    decodedBits (pendingState d) (List.replicate j false) = if j = 0 then [] else [d] := by
  cases j with
  | zero => rfl
  | succ j =>
    have hnext : nextMState (pendingState d) false = levelState false := nextMState_pendingState d false
    have hrest : decodedBits (levelState false) (List.replicate j false) = [] := by
      simpa [decodedBits] using decodedBits_steady false j []
    simp [List.replicate_succ, decodedBits, pendingBit_pendingState, hnext, hrest]

/-- The decoder's bits on the chips of a transmission: all but the last, which takes one idle chip (R133). -/
theorem decodedBits_transmission (k j : Nat) (ds : List Bit) :
    decodedBits .lowPhaseA (List.replicate k false ++ true :: (ds.flatMap symbol ++
        List.replicate j false)) =
      if j = 0 then (true :: ds).dropLast else true :: ds := by
  have hlocked : decodedBits .lowPhaseA (List.replicate k false ++ true :: (ds.flatMap symbol ++
      List.replicate j false)) = decodedBits (pendingState true) (ds.flatMap symbol ++
      List.replicate j false) := decodedBits_steady false k _
  rw [hlocked, decodedBits_pending_symbols, decodedBits_pending_idle]
  split
  · exact List.append_nil _
  · exact List.dropLast_append_getLast (List.cons_ne_nil true ds)

/-- A frame's bits from bit 48 up are the zero and the ones of a preamble (R75, R148). -/
theorem bitsFrom_eq_preambleBits {f : Word} (hf : syncOf f = 0xFFFE#16) {k : Nat} (hk : k ≤ 15) :
    bitsFrom (49 + k) f = preambleBits k f := by
  induction k with
  | zero =>
    have hzero : f.getLsbD 48 = false := getLsbD_of_sync hf le_rfl (by decide)
    exact congrArg (· :: bitsFrom 48 f) hzero
  | succ k ih =>
    have hone : f.getLsbD (49 + k) = true := by
      rw [getLsbD_of_sync hf (by omega) (by omega)]
      simp
    rw [← Nat.add_assoc, bitsFrom, hone, ih (by omega)]
    rfl

/-- A frame's own 64 bits deliver it, with the last of them and not before (R143, R148). -/
theorem framedBits_bitsFrom {f : Word} (hf : syncOf f = 0xFFFE#16) :
    (framedBits 0 (bitsFrom 64 f).dropLast).2 = [] ∧ (framedBits 0 (bitsFrom 64 f)).2 = [frameEvent f] := by
  rw [show bitsFrom 64 f = preambleBits 15 f from bitsFrom_eq_preambleBits hf le_rfl]
  obtain ⟨init, d, hsplit⟩ : ∃ init d, preambleBits 15 f = init ++ [d] :=
    (List.eq_nil_or_concat' _).resolve_left fun h => by simpa [h] using length_preambleBits 15 f
  have hlen : init.length = 63 := by simpa [hsplit] using length_preambleBits 15 f
  have hquiet : ∀ pre, pre <+: init → syncOf (shiftedAll 0 pre) ≠ 0xFFFE#16 := fun pre hpre =>
    noSync_of_prefix_preambleBits (hsplit ▸ hpre.trans (List.prefix_append init [d]))
      (hpre.length_le.trans hlen.le)
  have hall : shiftedAll 0 (init ++ [d]) = f := hsplit ▸ shiftedAll_preambleBits le_rfl hf
  rw [hsplit, List.dropLast_concat, framedBits_of_noSync hquiet,
    framedBits_concat_of_sync hquiet (hall.symm ▸ hf), hall]
  exact ⟨rfl, rfl⟩

/-- From the reset values, what a transmission of data bits that begin with a one delivers is the framer's
frames on them: on all of them once the further chip is out, and on all but the last before (R133, R190). -/
theorem frames_of_transmission {s : State} {n m : Nat} {ds : List Bit} {rest : List Event} (h4 : 4 ≤ s.spb)
    (hlast : s.lastSample = false) (hcount : s.samplesSinceEdge = 0) (hm : s.mstate = .lowPhaseA)
    (hr : s.sreg = 0) (hpos : 0 < m)
    (hi : s.input = (transmissionLevels s.spb n m (true :: ds)).map sampleOf ++ rest) :
    framesIn (observed (n + 2 * (ds.length + 1) * s.spb + m) s) =
      (framedBits 0 (if chipCount s.spb m = 0 then (true :: ds).dropLast else true :: ds)).2 := by
  have hframes := frames_of_levels h4 hi
  rwa [length_transmissionLevels, hlast, hcount, hm, hr, recoveredChips_transmission h4 n hpos,
    decodedBits_transmission] at hframes

/-- Settles O53: the further chip that releases the frame's last bit is out at the last of the `HALF` idle
samples. -/
theorem transmissionIsDelivered : Obligations.TransmissionIsDelivered := by
  intro s n f rest h4 hlast hcount hm hr hf hi last
  obtain ⟨ds, hbits, hlen⟩ : ∃ ds, bitsFrom 64 f = true :: ds ∧ ds.length = 63 := by
    have h := bitsFrom_eq_preambleBits hf (k := 15) le_rfl
    exact ⟨_, h, Nat.succ_injective (length_preambleBits 15 f)⟩
  have hframes {m : Nat} {es : List Event} (hpos : 0 < m)
      (hes : idleSamples (s.spb / 2) ++ rest = idleSamples m ++ es) :
      framesIn (observed (n + 128 * s.spb + m) s) =
        (framedBits 0 (if chipCount s.spb m = 0 then (bitsFrom 64 f).dropLast else bitsFrom 64 f)).2 := by
    have hi' : s.input = (transmissionLevels s.spb n m (true :: ds)).map sampleOf ++ es := by
      rw [map_transmissionLevels, ← hbits, hi, List.append_assoc, hes, ← List.append_assoc]
      rfl
    simpa only [hlen, hbits] using frames_of_transmission h4 hlast hcount hm hr hpos hi'
  obtain ⟨hbefore, hdelivered⟩ := framedBits_bitsFrom hf
  obtain ⟨k, hk⟩ : ∃ k, s.spb / 2 = k + 1 := ⟨s.spb / 2 - 1, by omega⟩
  have hnone : chipCount s.spb k = 0 := if_pos (by omega)
  have hone : chipCount s.spb (k + 1) = 1 := by
    rw [chipCount, if_neg (by omega), hk, Nat.sub_self, Nat.zero_div]
  have hlastIdle : idleSamples (s.spb / 2) ++ rest = idleSamples k ++ sampleOf false :: rest := by
    simp [hk, idleSamples, runOf, List.replicate_succ']
  constructor
  · have hstop : last - 1 = n + 128 * s.spb + k := by omega
    rw [hstop, hframes (by omega) hlastIdle, if_pos hnone, hbefore]
  · have hstop : last = n + 128 * s.spb + (k + 1) := by omega
    rw [hstop, hframes (by omega) (by rw [hk]), hone, if_neg Nat.one_ne_zero, hdelivered]

end Sys2Proof.Machine

/-!
EXCEPTIONS (60_exceptions.md): what a step does when the host presents nothing.
-/

namespace Sys2Proof.Machine

/-- Settles O2: such a step deasserts the outputs and writes nothing else. -/
theorem stepWithoutInputHoldsState : Obligations.StepWithoutInputHoldsState := by
  intro s h4 hi
  calc step s = .next s.quiet := step_idle h4 hi
    _ = .next { s with out := {} } := rfl

end Sys2Proof.Machine

/-!
SUPPORT. The statement on the phase at the start of a transmission (70_reset_and_hazards.md): on a stream of
valid samples the decoder follows the recoverer's chips, and a run of `HALF + SPB` samples yields two of them.
-/

namespace Sys2Proof.Machine

/-- The decoder goes on from what the chip, if there is one, left (R120). -/
theorem decoderResult_fst (m : MState) (chip : Option Bit) :
    (decoderResult m chip).1 = chip.toList.foldl nextMState m := by
  cases chip <;> rfl

/-- On a stream of valid samples the decoder follows the recoverer's chips, through the table's next states
(R120, R190). -/
theorem State.mstate_after_levels {s : State} {vs : List Bit} {rest : List Event} (h4 : 4 ≤ s.spb)
    (hi : s.input = vs.map sampleOf ++ rest) :
    (s.after vs.length).mstate =
      (recoveredChips s.spb s.lastSample s.samplesSinceEdge vs).foldl nextMState s.mstate := by
  induction vs generalizing s with
  | nil => rfl
  | cons v vs ih =>
    obtain ⟨t, hstep, hspb, hti, hrec⟩ := run_step (L := 0) h4 hi
    have hdec : t.mstate = t.out.chip.toList.foldl nextMState s.mstate := by
      have hrow := decoder_step hstep
      rw [hi] at hrow
      exact (congrArg Prod.fst hrow).trans (decoderResult_fst _ _)
    rw [List.length_cons, State.after_succ hstep, ih (hspb ▸ h4) hti, recoveredChips, ← hrec, hspb, hdec,
      List.foldl_append]

/-- `HALF + SPB` samples from an edge on are just enough for two chips (R105). -/
theorem recoveredChips_halfAndChip {spb : Nat} (h4 : 4 ≤ spb) {last v : Bit} (hv : last ≠ v) (count : Nat) :
    recoveredChips spb last count (List.replicate (spb / 2 + spb) v) = [v, v] := by
  have htwo : chipCount spb (spb / 2 + spb) = 2 := by
    rw [chipCount, if_neg (by omega), Nat.add_sub_cancel_left, Nat.div_self (by omega)]
  simpa [recoveredChips, htwo] using recoveredChips_run h4 (count := count) (.inl hv)
    (show 0 < spb / 2 + spb by omega) []

/-- Settles O23: the run's two low chips fix the decoder's state, whatever it was (R134). -/
theorem lowRunLocksDecoder : Obligations.LowRunLocksDecoder := by
  intro s rest h4 hlast hi
  have hedge : s.lastSample ≠ false := by simp [hlast]
  have hi : s.input = (List.replicate (s.spb / 2 + s.spb) false).map sampleOf ++ rest := by
    rw [List.map_replicate, hi, runOf]
  have hafter := State.mstate_after_levels h4 hi
  rw [List.length_replicate, recoveredChips_halfAndChip h4 hedge] at hafter
  exact hafter.trans (nextMState_twice s.mstate false)

end Sys2Proof.Machine

/-!
SUPPORT. The statement on configurations outside the admitted range (R108, X1).
-/

namespace Sys2Proof.Machine

/-- `SPB` below 4 is outside the admitted range (R108). -/
theorem State.not_admitted_of_spb_lt {s : State} (h : s.spb < 4) : ¬ s.admitted = true :=
  mt s.admitted_iff.1 (Nat.not_le.2 h)

section notAdmitted
variable {s : State} (h : ¬ s.admitted = true)
include h

/-- Whatever is presented, a configuration that is not admitted makes no step (X1). -/
theorem step_refused_of_not_admitted : step s = .refused .spbNotAdmitted := if_neg h

/-- A valid sample of either level is refused where the configuration is not admitted (X1). -/
theorem State.sampleStep_refused (v : Bit) : s.sampleStep v = .refused .spbNotAdmitted := if_neg h

end notAdmitted

/-- Settles O3: `step` and RECOVER, which both sample rows run, begin with the test of R108. -/
theorem smallSpbIsRefused : Obligations.SmallSpbIsRefused := by
  intro s hspb
  have hnot := State.not_admitted_of_spb_lt hspb
  exact ⟨step_refused_of_not_admitted hnot, State.sampleStep_refused hnot false,
    State.sampleStep_refused hnot true⟩

end Sys2Proof.Machine
